-- ==== Sys2Proof/Word.lean ====
section
/-! DEFINITION. The word types of the block (00_scope R11, R13) and the sizes of an access (20_memory R220). -/

namespace Sys2Proof

/-- A register, an address, an ARM instruction word: 32 bits (R11). -/
abbrev Word := BitVec 32

/-- A halfword: a Thumb instruction, a 16-bit access (R11, R220). -/
abbrev Half := BitVec 16

/-- The unit every address names (R11: byte addressed). -/
abbrev Byte := BitVec 8

/-- A register number of an ARM instruction, 0 to 15 (R303). -/
abbrev RegNum := BitVec 4

/-- A low register number of a Thumb instruction, 0 to 7 (R340). -/
abbrev LowReg := BitVec 3

/-- The low register as one of the sixteen visible registers. -/
abbrev LowReg.num (r : LowReg) : RegNum := r.zeroExtend 4

/-- The three access sizes of the memory interface (R200, R220). -/
inductive Width where
  | byte
  | half
  | word
  deriving DecidableEq, Repr, Inhabited

/-- The number of bytes an access of this width moves. -/
abbrev Width.bytes : Width → Nat
  | .byte => 1
  | .half => 2
  | .word => 4

end Sys2Proof
end

