-- ==== Sys2Proof/Syntax.lean ====
section
/-! DEFINITION. The instructions: one constructor of `Instr` for each row of spec/opcode_table.json (R380), its arguments
the row's fields (30_encoding R302, R303, R340). Should-be-zero fields the decoder ignores (R375) are kept as arguments,
so that no bit of an encoding is lost. Argument names: `c` condition, `f` the S bit (set flags), `u` add the offset, `w` write
back, `im` bit 22 of the halfword format, `ub` the S bit of a block transfer, `spsr` the R bit of MRS and MSR; the others as in
the spec. -/

namespace Sys2Proof

/-- The condition field (R411). -/
inductive Cond where
  | eq | ne | cs | cc | mi | pl | vs | vc | hi | ls | ge | lt | gt | le | al | nv
  deriving DecidableEq, Repr, Inhabited

/-- The `sh` field (R303). -/
inductive ShiftKind where
  | lsl | lsr | asr | ror
  deriving DecidableEq, Repr, Inhabited

/-- The data-processing opcode, bits 24:21 (R303), in the order of its encoding. -/
inductive DpOp where
  | and | eor | sub | rsb | add | adc | sbc | rsc | tst | teq | cmp | cmn | orr | mov | bic | mvn
  deriving DecidableEq, Repr, Inhabited

/-- The opcode writes no register: TST, TEQ, CMP, CMN (R450). -/
def DpOp.isCompare : DpOp → Bool
  | .tst | .teq | .cmp | .cmn => true
  | _ => false

/-- The opcode does not read Rn: MOV, MVN (R452). -/
def DpOp.ignoresRn : DpOp → Bool
  | .mov | .mvn => true
  | _ => false

/-- Every instruction form of the opcode table. -/
inductive Instr where
  /-- ARM AND, format DP_IMM (R460). -/
  | andImm (c : Cond) (f : Bool) (rn rd : RegNum) (rot : BitVec 4) (imm : BitVec 8)
  /-- ARM AND, format DP_REG_IMMSHIFT (R460). -/
  | andShiftImm (c : Cond) (f : Bool) (rn rd : RegNum) (amt : BitVec 5) (sh : ShiftKind) (rm : RegNum)
  /-- ARM AND, format DP_REG_REGSHIFT (R460). -/
  | andShiftReg (c : Cond) (f : Bool) (rn rd rs : RegNum) (sh : ShiftKind) (rm : RegNum)
  /-- ARM EOR, format DP_IMM (R461). -/
  | eorImm (c : Cond) (f : Bool) (rn rd : RegNum) (rot : BitVec 4) (imm : BitVec 8)
  /-- ARM EOR, format DP_REG_IMMSHIFT (R461). -/
  | eorShiftImm (c : Cond) (f : Bool) (rn rd : RegNum) (amt : BitVec 5) (sh : ShiftKind) (rm : RegNum)
  /-- ARM EOR, format DP_REG_REGSHIFT (R461). -/
  | eorShiftReg (c : Cond) (f : Bool) (rn rd rs : RegNum) (sh : ShiftKind) (rm : RegNum)
  /-- ARM SUB, format DP_IMM (R462). -/
  | subImm (c : Cond) (f : Bool) (rn rd : RegNum) (rot : BitVec 4) (imm : BitVec 8)
  /-- ARM SUB, format DP_REG_IMMSHIFT (R462). -/
  | subShiftImm (c : Cond) (f : Bool) (rn rd : RegNum) (amt : BitVec 5) (sh : ShiftKind) (rm : RegNum)
  /-- ARM SUB, format DP_REG_REGSHIFT (R462). -/
  | subShiftReg (c : Cond) (f : Bool) (rn rd rs : RegNum) (sh : ShiftKind) (rm : RegNum)
  /-- ARM RSB, format DP_IMM (R463). -/
  | rsbImm (c : Cond) (f : Bool) (rn rd : RegNum) (rot : BitVec 4) (imm : BitVec 8)
  /-- ARM RSB, format DP_REG_IMMSHIFT (R463). -/
  | rsbShiftImm (c : Cond) (f : Bool) (rn rd : RegNum) (amt : BitVec 5) (sh : ShiftKind) (rm : RegNum)
  /-- ARM RSB, format DP_REG_REGSHIFT (R463). -/
  | rsbShiftReg (c : Cond) (f : Bool) (rn rd rs : RegNum) (sh : ShiftKind) (rm : RegNum)
  /-- ARM ADD, format DP_IMM (R464). -/
  | addImm (c : Cond) (f : Bool) (rn rd : RegNum) (rot : BitVec 4) (imm : BitVec 8)
  /-- ARM ADD, format DP_REG_IMMSHIFT (R464). -/
  | addShiftImm (c : Cond) (f : Bool) (rn rd : RegNum) (amt : BitVec 5) (sh : ShiftKind) (rm : RegNum)
  /-- ARM ADD, format DP_REG_REGSHIFT (R464). -/
  | addShiftReg (c : Cond) (f : Bool) (rn rd rs : RegNum) (sh : ShiftKind) (rm : RegNum)
  /-- ARM ADC, format DP_IMM (R465). -/
  | adcImm (c : Cond) (f : Bool) (rn rd : RegNum) (rot : BitVec 4) (imm : BitVec 8)
  /-- ARM ADC, format DP_REG_IMMSHIFT (R465). -/
  | adcShiftImm (c : Cond) (f : Bool) (rn rd : RegNum) (amt : BitVec 5) (sh : ShiftKind) (rm : RegNum)
  /-- ARM ADC, format DP_REG_REGSHIFT (R465). -/
  | adcShiftReg (c : Cond) (f : Bool) (rn rd rs : RegNum) (sh : ShiftKind) (rm : RegNum)
  /-- ARM SBC, format DP_IMM (R466). -/
  | sbcImm (c : Cond) (f : Bool) (rn rd : RegNum) (rot : BitVec 4) (imm : BitVec 8)
  /-- ARM SBC, format DP_REG_IMMSHIFT (R466). -/
  | sbcShiftImm (c : Cond) (f : Bool) (rn rd : RegNum) (amt : BitVec 5) (sh : ShiftKind) (rm : RegNum)
  /-- ARM SBC, format DP_REG_REGSHIFT (R466). -/
  | sbcShiftReg (c : Cond) (f : Bool) (rn rd rs : RegNum) (sh : ShiftKind) (rm : RegNum)
  /-- ARM RSC, format DP_IMM (R467). -/
  | rscImm (c : Cond) (f : Bool) (rn rd : RegNum) (rot : BitVec 4) (imm : BitVec 8)
  /-- ARM RSC, format DP_REG_IMMSHIFT (R467). -/
  | rscShiftImm (c : Cond) (f : Bool) (rn rd : RegNum) (amt : BitVec 5) (sh : ShiftKind) (rm : RegNum)
  /-- ARM RSC, format DP_REG_REGSHIFT (R467). -/
  | rscShiftReg (c : Cond) (f : Bool) (rn rd rs : RegNum) (sh : ShiftKind) (rm : RegNum)
  /-- ARM TST, format DP_IMM (R468). -/
  | tstImm (c : Cond) (rn rd : RegNum) (rot : BitVec 4) (imm : BitVec 8)
  /-- ARM TST, format DP_REG_IMMSHIFT (R468). -/
  | tstShiftImm (c : Cond) (rn rd : RegNum) (amt : BitVec 5) (sh : ShiftKind) (rm : RegNum)
  /-- ARM TST, format DP_REG_REGSHIFT (R468). -/
  | tstShiftReg (c : Cond) (rn rd rs : RegNum) (sh : ShiftKind) (rm : RegNum)
  /-- ARM TEQ, format DP_IMM (R469). -/
  | teqImm (c : Cond) (rn rd : RegNum) (rot : BitVec 4) (imm : BitVec 8)
  /-- ARM TEQ, format DP_REG_IMMSHIFT (R469). -/
  | teqShiftImm (c : Cond) (rn rd : RegNum) (amt : BitVec 5) (sh : ShiftKind) (rm : RegNum)
  /-- ARM TEQ, format DP_REG_REGSHIFT (R469). -/
  | teqShiftReg (c : Cond) (rn rd rs : RegNum) (sh : ShiftKind) (rm : RegNum)
  /-- ARM CMP, format DP_IMM (R470). -/
  | cmpImm (c : Cond) (rn rd : RegNum) (rot : BitVec 4) (imm : BitVec 8)
  /-- ARM CMP, format DP_REG_IMMSHIFT (R470). -/
  | cmpShiftImm (c : Cond) (rn rd : RegNum) (amt : BitVec 5) (sh : ShiftKind) (rm : RegNum)
  /-- ARM CMP, format DP_REG_REGSHIFT (R470). -/
  | cmpShiftReg (c : Cond) (rn rd rs : RegNum) (sh : ShiftKind) (rm : RegNum)
  /-- ARM CMN, format DP_IMM (R471). -/
  | cmnImm (c : Cond) (rn rd : RegNum) (rot : BitVec 4) (imm : BitVec 8)
  /-- ARM CMN, format DP_REG_IMMSHIFT (R471). -/
  | cmnShiftImm (c : Cond) (rn rd : RegNum) (amt : BitVec 5) (sh : ShiftKind) (rm : RegNum)
  /-- ARM CMN, format DP_REG_REGSHIFT (R471). -/
  | cmnShiftReg (c : Cond) (rn rd rs : RegNum) (sh : ShiftKind) (rm : RegNum)
  /-- ARM ORR, format DP_IMM (R472). -/
  | orrImm (c : Cond) (f : Bool) (rn rd : RegNum) (rot : BitVec 4) (imm : BitVec 8)
  /-- ARM ORR, format DP_REG_IMMSHIFT (R472). -/
  | orrShiftImm (c : Cond) (f : Bool) (rn rd : RegNum) (amt : BitVec 5) (sh : ShiftKind) (rm : RegNum)
  /-- ARM ORR, format DP_REG_REGSHIFT (R472). -/
  | orrShiftReg (c : Cond) (f : Bool) (rn rd rs : RegNum) (sh : ShiftKind) (rm : RegNum)
  /-- ARM MOV, format DP_IMM (R473). -/
  | movImm (c : Cond) (f : Bool) (rn rd : RegNum) (rot : BitVec 4) (imm : BitVec 8)
  /-- ARM MOV, format DP_REG_IMMSHIFT (R473). -/
  | movShiftImm (c : Cond) (f : Bool) (rn rd : RegNum) (amt : BitVec 5) (sh : ShiftKind) (rm : RegNum)
  /-- ARM MOV, format DP_REG_REGSHIFT (R473). -/
  | movShiftReg (c : Cond) (f : Bool) (rn rd rs : RegNum) (sh : ShiftKind) (rm : RegNum)
  /-- ARM BIC, format DP_IMM (R474). -/
  | bicImm (c : Cond) (f : Bool) (rn rd : RegNum) (rot : BitVec 4) (imm : BitVec 8)
  /-- ARM BIC, format DP_REG_IMMSHIFT (R474). -/
  | bicShiftImm (c : Cond) (f : Bool) (rn rd : RegNum) (amt : BitVec 5) (sh : ShiftKind) (rm : RegNum)
  /-- ARM BIC, format DP_REG_REGSHIFT (R474). -/
  | bicShiftReg (c : Cond) (f : Bool) (rn rd rs : RegNum) (sh : ShiftKind) (rm : RegNum)
  /-- ARM MVN, format DP_IMM (R475). -/
  | mvnImm (c : Cond) (f : Bool) (rn rd : RegNum) (rot : BitVec 4) (imm : BitVec 8)
  /-- ARM MVN, format DP_REG_IMMSHIFT (R475). -/
  | mvnShiftImm (c : Cond) (f : Bool) (rn rd : RegNum) (amt : BitVec 5) (sh : ShiftKind) (rm : RegNum)
  /-- ARM MVN, format DP_REG_REGSHIFT (R475). -/
  | mvnShiftReg (c : Cond) (f : Bool) (rn rd rs : RegNum) (sh : ShiftKind) (rm : RegNum)
  /-- ARM MRS, format PSR (R560). -/
  | mrs (c : Cond) (spsr : Bool) (rd : RegNum)
  /-- ARM MSR, format PSR_REG (R565). -/
  | msrReg (c : Cond) (spsr : Bool) (mask : BitVec 4) (rm : RegNum)
  /-- ARM MSR, format PSR_IMM (R565). -/
  | msrImm (c : Cond) (spsr : Bool) (mask rot : BitVec 4) (imm : BitVec 8)
  /-- ARM BX, format BX (R555). -/
  | bx (c : Cond) (rm : RegNum)
  /-- ARM MUL, format MUL (R500). -/
  | mul (c : Cond) (f : Bool) (rd rn rs rm : RegNum)
  /-- ARM MLA, format MUL (R502). -/
  | mla (c : Cond) (f : Bool) (rd rn rs rm : RegNum)
  /-- ARM UMULL, format MULL (R511). -/
  | umull (c : Cond) (f : Bool) (rdHi rdLo rs rm : RegNum)
  /-- ARM UMLAL, format MULL (R512). -/
  | umlal (c : Cond) (f : Bool) (rdHi rdLo rs rm : RegNum)
  /-- ARM SMULL, format MULL (R513). -/
  | smull (c : Cond) (f : Bool) (rdHi rdLo rs rm : RegNum)
  /-- ARM SMLAL, format MULL (R514). -/
  | smlal (c : Cond) (f : Bool) (rdHi rdLo rs rm : RegNum)
  /-- ARM SWP, format SWP (R630). -/
  | swp (c : Cond) (rn rd rm : RegNum)
  /-- ARM SWPB, format SWP (R631). -/
  | swpb (c : Cond) (rn rd rm : RegNum)
  /-- ARM STRH, format HALF_PRE (R624). -/
  | strhPre (c : Cond) (u im w : Bool) (rn rd : RegNum) (hi lo : BitVec 4)
  /-- ARM STRH, format HALF_POST (R624). -/
  | strhPost (c : Cond) (u im : Bool) (rn rd : RegNum) (hi lo : BitVec 4)
  /-- ARM LDRH, format HALF_PRE (R621). -/
  | ldrhPre (c : Cond) (u im w : Bool) (rn rd : RegNum) (hi lo : BitVec 4)
  /-- ARM LDRH, format HALF_POST (R621). -/
  | ldrhPost (c : Cond) (u im : Bool) (rn rd : RegNum) (hi lo : BitVec 4)
  /-- ARM LDRSB, format HALF_PRE (R622). -/
  | ldrsbPre (c : Cond) (u im w : Bool) (rn rd : RegNum) (hi lo : BitVec 4)
  /-- ARM LDRSB, format HALF_POST (R622). -/
  | ldrsbPost (c : Cond) (u im : Bool) (rn rd : RegNum) (hi lo : BitVec 4)
  /-- ARM LDRSH, format HALF_PRE (R623). -/
  | ldrshPre (c : Cond) (u im w : Bool) (rn rd : RegNum) (hi lo : BitVec 4)
  /-- ARM LDRSH, format HALF_POST (R623). -/
  | ldrshPost (c : Cond) (u im : Bool) (rn rd : RegNum) (hi lo : BitVec 4)
  /-- ARM STR, format SDT_IMM_PRE (R604). -/
  | strImmPre (c : Cond) (u w : Bool) (rn rd : RegNum) (off : BitVec 12)
  /-- ARM STR, format SDT_IMM_POST (R604). -/
  | strImmPost (c : Cond) (u : Bool) (rn rd : RegNum) (off : BitVec 12)
  /-- ARM STRT, format SDT_IMM_POST_T (R609). -/
  | strtImm (c : Cond) (u : Bool) (rn rd : RegNum) (off : BitVec 12)
  /-- ARM STR, format SDT_REG_PRE (R604). -/
  | strRegPre (c : Cond) (u w : Bool) (rn rd : RegNum) (amt : BitVec 5) (sh : ShiftKind) (rm : RegNum)
  /-- ARM STR, format SDT_REG_POST (R604). -/
  | strRegPost (c : Cond) (u : Bool) (rn rd : RegNum) (amt : BitVec 5) (sh : ShiftKind) (rm : RegNum)
  /-- ARM STRT, format SDT_REG_POST_T (R609). -/
  | strtReg (c : Cond) (u : Bool) (rn rd : RegNum) (amt : BitVec 5) (sh : ShiftKind) (rm : RegNum)
  /-- ARM LDR, format SDT_IMM_PRE (R602). -/
  | ldrImmPre (c : Cond) (u w : Bool) (rn rd : RegNum) (off : BitVec 12)
  /-- ARM LDR, format SDT_IMM_POST (R602). -/
  | ldrImmPost (c : Cond) (u : Bool) (rn rd : RegNum) (off : BitVec 12)
  /-- ARM LDRT, format SDT_IMM_POST_T (R607). -/
  | ldrtImm (c : Cond) (u : Bool) (rn rd : RegNum) (off : BitVec 12)
  /-- ARM LDR, format SDT_REG_PRE (R602). -/
  | ldrRegPre (c : Cond) (u w : Bool) (rn rd : RegNum) (amt : BitVec 5) (sh : ShiftKind) (rm : RegNum)
  /-- ARM LDR, format SDT_REG_POST (R602). -/
  | ldrRegPost (c : Cond) (u : Bool) (rn rd : RegNum) (amt : BitVec 5) (sh : ShiftKind) (rm : RegNum)
  /-- ARM LDRT, format SDT_REG_POST_T (R607). -/
  | ldrtReg (c : Cond) (u : Bool) (rn rd : RegNum) (amt : BitVec 5) (sh : ShiftKind) (rm : RegNum)
  /-- ARM STRB, format SDT_IMM_PRE (R606). -/
  | strbImmPre (c : Cond) (u w : Bool) (rn rd : RegNum) (off : BitVec 12)
  /-- ARM STRB, format SDT_IMM_POST (R606). -/
  | strbImmPost (c : Cond) (u : Bool) (rn rd : RegNum) (off : BitVec 12)
  /-- ARM STRBT, format SDT_IMM_POST_T (R610). -/
  | strbtImm (c : Cond) (u : Bool) (rn rd : RegNum) (off : BitVec 12)
  /-- ARM STRB, format SDT_REG_PRE (R606). -/
  | strbRegPre (c : Cond) (u w : Bool) (rn rd : RegNum) (amt : BitVec 5) (sh : ShiftKind) (rm : RegNum)
  /-- ARM STRB, format SDT_REG_POST (R606). -/
  | strbRegPost (c : Cond) (u : Bool) (rn rd : RegNum) (amt : BitVec 5) (sh : ShiftKind) (rm : RegNum)
  /-- ARM STRBT, format SDT_REG_POST_T (R610). -/
  | strbtReg (c : Cond) (u : Bool) (rn rd : RegNum) (amt : BitVec 5) (sh : ShiftKind) (rm : RegNum)
  /-- ARM LDRB, format SDT_IMM_PRE (R603). -/
  | ldrbImmPre (c : Cond) (u w : Bool) (rn rd : RegNum) (off : BitVec 12)
  /-- ARM LDRB, format SDT_IMM_POST (R603). -/
  | ldrbImmPost (c : Cond) (u : Bool) (rn rd : RegNum) (off : BitVec 12)
  /-- ARM LDRBT, format SDT_IMM_POST_T (R608). -/
  | ldrbtImm (c : Cond) (u : Bool) (rn rd : RegNum) (off : BitVec 12)
  /-- ARM LDRB, format SDT_REG_PRE (R603). -/
  | ldrbRegPre (c : Cond) (u w : Bool) (rn rd : RegNum) (amt : BitVec 5) (sh : ShiftKind) (rm : RegNum)
  /-- ARM LDRB, format SDT_REG_POST (R603). -/
  | ldrbRegPost (c : Cond) (u : Bool) (rn rd : RegNum) (amt : BitVec 5) (sh : ShiftKind) (rm : RegNum)
  /-- ARM LDRBT, format SDT_REG_POST_T (R608). -/
  | ldrbtReg (c : Cond) (u : Bool) (rn rd : RegNum) (amt : BitVec 5) (sh : ShiftKind) (rm : RegNum)
  /-- ARM UND, format UNDEFINED (R585). -/
  | und (c : Cond) (hi : BitVec 20) (lo : BitVec 4)
  /-- ARM LDMIA, format BLOCK (R652). -/
  | ldmia (c : Cond) (ub w : Bool) (rn : RegNum) (list : BitVec 16)
  /-- ARM STMIA, format BLOCK (R653). -/
  | stmia (c : Cond) (ub w : Bool) (rn : RegNum) (list : BitVec 16)
  /-- ARM LDMIB, format BLOCK (R652). -/
  | ldmib (c : Cond) (ub w : Bool) (rn : RegNum) (list : BitVec 16)
  /-- ARM STMIB, format BLOCK (R653). -/
  | stmib (c : Cond) (ub w : Bool) (rn : RegNum) (list : BitVec 16)
  /-- ARM LDMDA, format BLOCK (R652). -/
  | ldmda (c : Cond) (ub w : Bool) (rn : RegNum) (list : BitVec 16)
  /-- ARM STMDA, format BLOCK (R653). -/
  | stmda (c : Cond) (ub w : Bool) (rn : RegNum) (list : BitVec 16)
  /-- ARM LDMDB, format BLOCK (R652). -/
  | ldmdb (c : Cond) (ub w : Bool) (rn : RegNum) (list : BitVec 16)
  /-- ARM STMDB, format BLOCK (R653). -/
  | stmdb (c : Cond) (ub w : Bool) (rn : RegNum) (list : BitVec 16)
  /-- ARM B, format BRANCH (R550). -/
  | b (c : Cond) (off : BitVec 24)
  /-- ARM BL, format BRANCH (R551). -/
  | bl (c : Cond) (off : BitVec 24)
  /-- ARM STC, format COPROC_DT (R580). -/
  | stc (c : Cond) (ix : BitVec 4) (rn : RegNum) (crd cp : BitVec 4) (off : BitVec 8)
  /-- ARM LDC, format COPROC_DT (R580). -/
  | ldc (c : Cond) (ix : BitVec 4) (rn : RegNum) (crd cp : BitVec 4) (off : BitVec 8)
  /-- ARM CDP, format COPROC_DO (R580). -/
  | cdp (c : Cond) (op1 crn crd cp : BitVec 4) (op2 : BitVec 3) (crm : BitVec 4)
  /-- ARM MCR, format COPROC_RT (R580). -/
  | mcr (c : Cond) (op1 : BitVec 3) (crn : BitVec 4) (rd : RegNum) (cp : BitVec 4) (op2 : BitVec 3) (crm : BitVec 4)
  /-- ARM MRC, format COPROC_RT (R580). -/
  | mrc (c : Cond) (op1 : BitVec 3) (crn : BitVec 4) (rd : RegNum) (cp : BitVec 4) (op2 : BitVec 3) (crm : BitVec 4)
  /-- ARM SWI, format SWI (R570). -/
  | swi (c : Cond) (comment : BitVec 24)
  /-- Thumb LSL, format T1 (R701). -/
  | tLslImm (off : BitVec 5) (rs rd : LowReg)
  /-- Thumb LSR, format T1 (R702). -/
  | tLsrImm (off : BitVec 5) (rs rd : LowReg)
  /-- Thumb ASR, format T1 (R703). -/
  | tAsrImm (off : BitVec 5) (rs rd : LowReg)
  /-- Thumb ADD, format T2_REG (R704). -/
  | tAddReg (rn rs rd : LowReg)
  /-- Thumb SUB, format T2_REG (R705). -/
  | tSubReg (rn rs rd : LowReg)
  /-- Thumb ADD, format T2_IMM (R706). -/
  | tAddImm3 (imm : BitVec 3) (rs rd : LowReg)
  /-- Thumb SUB, format T2_IMM (R707). -/
  | tSubImm3 (imm : BitVec 3) (rs rd : LowReg)
  /-- Thumb MOV, format T3 (R708). -/
  | tMovImm8 (rd : LowReg) (imm : BitVec 8)
  /-- Thumb CMP, format T3 (R709). -/
  | tCmpImm8 (rd : LowReg) (imm : BitVec 8)
  /-- Thumb ADD, format T3 (R710). -/
  | tAddImm8 (rd : LowReg) (imm : BitVec 8)
  /-- Thumb SUB, format T3 (R711). -/
  | tSubImm8 (rd : LowReg) (imm : BitVec 8)
  /-- Thumb AND, format T4 (R712). -/
  | tAnd (rs rd : LowReg)
  /-- Thumb EOR, format T4 (R713). -/
  | tEor (rs rd : LowReg)
  /-- Thumb LSL, format T4 (R714). -/
  | tLslReg (rs rd : LowReg)
  /-- Thumb LSR, format T4 (R715). -/
  | tLsrReg (rs rd : LowReg)
  /-- Thumb ASR, format T4 (R716). -/
  | tAsrReg (rs rd : LowReg)
  /-- Thumb ADC, format T4 (R717). -/
  | tAdc (rs rd : LowReg)
  /-- Thumb SBC, format T4 (R718). -/
  | tSbc (rs rd : LowReg)
  /-- Thumb ROR, format T4 (R719). -/
  | tRorReg (rs rd : LowReg)
  /-- Thumb TST, format T4 (R720). -/
  | tTst (rs rd : LowReg)
  /-- Thumb NEG, format T4 (R721). -/
  | tNeg (rs rd : LowReg)
  /-- Thumb CMP, format T4 (R722). -/
  | tCmpReg (rs rd : LowReg)
  /-- Thumb CMN, format T4 (R723). -/
  | tCmn (rs rd : LowReg)
  /-- Thumb ORR, format T4 (R724). -/
  | tOrr (rs rd : LowReg)
  /-- Thumb MUL, format T4 (R725). -/
  | tMul (rs rd : LowReg)
  /-- Thumb BIC, format T4 (R726). -/
  | tBic (rs rd : LowReg)
  /-- Thumb MVN, format T4 (R727). -/
  | tMvn (rs rd : LowReg)
  /-- Thumb ADD, format T5 (R730). -/
  | tAddHi (m d : RegNum)
  /-- Thumb CMP, format T5 (R731). -/
  | tCmpHi (m d : RegNum)
  /-- Thumb MOV, format T5 (R732). -/
  | tMovHi (m d : RegNum)
  /-- Thumb BX, format T5 (R735). -/
  | tBx (m : RegNum) (sbz : BitVec 3)
  /-- Thumb LDR, format T6_PC (R750). -/
  | tLdrPc (rd : LowReg) (imm : BitVec 8)
  /-- Thumb STR, format T7 (R751). -/
  | tStrReg (ro rb rd : LowReg)
  /-- Thumb STRB, format T7 (R752). -/
  | tStrbReg (ro rb rd : LowReg)
  /-- Thumb LDR, format T7 (R753). -/
  | tLdrReg (ro rb rd : LowReg)
  /-- Thumb LDRB, format T7 (R754). -/
  | tLdrbReg (ro rb rd : LowReg)
  /-- Thumb STRH, format T8 (R755). -/
  | tStrhReg (ro rb rd : LowReg)
  /-- Thumb LDSB, format T8 (R756). -/
  | tLdsbReg (ro rb rd : LowReg)
  /-- Thumb LDRH, format T8 (R757). -/
  | tLdrhReg (ro rb rd : LowReg)
  /-- Thumb LDSH, format T8 (R758). -/
  | tLdshReg (ro rb rd : LowReg)
  /-- Thumb STR, format T9 (R760). -/
  | tStrOff (off : BitVec 5) (rb rd : LowReg)
  /-- Thumb LDR, format T9 (R761). -/
  | tLdrOff (off : BitVec 5) (rb rd : LowReg)
  /-- Thumb STRB, format T9 (R762). -/
  | tStrbOff (off : BitVec 5) (rb rd : LowReg)
  /-- Thumb LDRB, format T9 (R763). -/
  | tLdrbOff (off : BitVec 5) (rb rd : LowReg)
  /-- Thumb STRH, format T10 (R764). -/
  | tStrhOff (off : BitVec 5) (rb rd : LowReg)
  /-- Thumb LDRH, format T10 (R765). -/
  | tLdrhOff (off : BitVec 5) (rb rd : LowReg)
  /-- Thumb STR, format T11_SP (R766). -/
  | tStrSp (rd : LowReg) (imm : BitVec 8)
  /-- Thumb LDR, format T11_SP (R767). -/
  | tLdrSp (rd : LowReg) (imm : BitVec 8)
  /-- Thumb ADD, format T12_PC (R740). -/
  | tAddPc (rd : LowReg) (imm : BitVec 8)
  /-- Thumb ADD, format T12_SP (R741). -/
  | tAddSp (rd : LowReg) (imm : BitVec 8)
  /-- Thumb ADD, format T13 (R742). -/
  | tAdjustSp (sub : Bool) (imm : BitVec 7)
  /-- Thumb PUSH, format T14 (R770). -/
  | tPush (r : Bool) (list : BitVec 8)
  /-- Thumb POP, format T14 (R771). -/
  | tPop (r : Bool) (list : BitVec 8)
  /-- Thumb STMIA, format T15 (R772). -/
  | tStmia (rb : LowReg) (list : BitVec 8)
  /-- Thumb LDMIA, format T15 (R773). -/
  | tLdmia (rb : LowReg) (list : BitVec 8)
  /-- Thumb BEQ, format T16 (R785). -/
  | tBeq (off : BitVec 8)
  /-- Thumb BNE, format T16 (R785). -/
  | tBne (off : BitVec 8)
  /-- Thumb BCS, format T16 (R785). -/
  | tBcs (off : BitVec 8)
  /-- Thumb BCC, format T16 (R785). -/
  | tBcc (off : BitVec 8)
  /-- Thumb BMI, format T16 (R785). -/
  | tBmi (off : BitVec 8)
  /-- Thumb BPL, format T16 (R785). -/
  | tBpl (off : BitVec 8)
  /-- Thumb BVS, format T16 (R785). -/
  | tBvs (off : BitVec 8)
  /-- Thumb BVC, format T16 (R785). -/
  | tBvc (off : BitVec 8)
  /-- Thumb BHI, format T16 (R785). -/
  | tBhi (off : BitVec 8)
  /-- Thumb BLS, format T16 (R785). -/
  | tBls (off : BitVec 8)
  /-- Thumb BGE, format T16 (R785). -/
  | tBge (off : BitVec 8)
  /-- Thumb BLT, format T16 (R785). -/
  | tBlt (off : BitVec 8)
  /-- Thumb BGT, format T16 (R785). -/
  | tBgt (off : BitVec 8)
  /-- Thumb BLE, format T16 (R785). -/
  | tBle (off : BitVec 8)
  /-- Thumb UND, format T16_UND (R786). -/
  | tUnd (low : BitVec 8)
  /-- Thumb SWI, format T17 (R787). -/
  | tSwi (value : BitVec 8)
  /-- Thumb B, format T18 (R788). -/
  | tB (off : BitVec 11)
  /-- Thumb BL_PREFIX, format T19_H0 (R789). -/
  | tBlPrefix (off : BitVec 11)
  /-- Thumb BL_SUFFIX, format T19_H1 (R790). -/
  | tBlSuffix (off : BitVec 11)
  deriving DecidableEq, Repr

/-- The instruction is a 16-bit Thumb instruction (R300). -/
def Instr.isThumb : Instr → Bool
  | .andImm .. => false
  | .andShiftImm .. => false
  | .andShiftReg .. => false
  | .eorImm .. => false
  | .eorShiftImm .. => false
  | .eorShiftReg .. => false
  | .subImm .. => false
  | .subShiftImm .. => false
  | .subShiftReg .. => false
  | .rsbImm .. => false
  | .rsbShiftImm .. => false
  | .rsbShiftReg .. => false
  | .addImm .. => false
  | .addShiftImm .. => false
  | .addShiftReg .. => false
  | .adcImm .. => false
  | .adcShiftImm .. => false
  | .adcShiftReg .. => false
  | .sbcImm .. => false
  | .sbcShiftImm .. => false
  | .sbcShiftReg .. => false
  | .rscImm .. => false
  | .rscShiftImm .. => false
  | .rscShiftReg .. => false
  | .tstImm .. => false
  | .tstShiftImm .. => false
  | .tstShiftReg .. => false
  | .teqImm .. => false
  | .teqShiftImm .. => false
  | .teqShiftReg .. => false
  | .cmpImm .. => false
  | .cmpShiftImm .. => false
  | .cmpShiftReg .. => false
  | .cmnImm .. => false
  | .cmnShiftImm .. => false
  | .cmnShiftReg .. => false
  | .orrImm .. => false
  | .orrShiftImm .. => false
  | .orrShiftReg .. => false
  | .movImm .. => false
  | .movShiftImm .. => false
  | .movShiftReg .. => false
  | .bicImm .. => false
  | .bicShiftImm .. => false
  | .bicShiftReg .. => false
  | .mvnImm .. => false
  | .mvnShiftImm .. => false
  | .mvnShiftReg .. => false
  | .mrs .. => false
  | .msrReg .. => false
  | .msrImm .. => false
  | .bx .. => false
  | .mul .. => false
  | .mla .. => false
  | .umull .. => false
  | .umlal .. => false
  | .smull .. => false
  | .smlal .. => false
  | .swp .. => false
  | .swpb .. => false
  | .strhPre .. => false
  | .strhPost .. => false
  | .ldrhPre .. => false
  | .ldrhPost .. => false
  | .ldrsbPre .. => false
  | .ldrsbPost .. => false
  | .ldrshPre .. => false
  | .ldrshPost .. => false
  | .strImmPre .. => false
  | .strImmPost .. => false
  | .strtImm .. => false
  | .strRegPre .. => false
  | .strRegPost .. => false
  | .strtReg .. => false
  | .ldrImmPre .. => false
  | .ldrImmPost .. => false
  | .ldrtImm .. => false
  | .ldrRegPre .. => false
  | .ldrRegPost .. => false
  | .ldrtReg .. => false
  | .strbImmPre .. => false
  | .strbImmPost .. => false
  | .strbtImm .. => false
  | .strbRegPre .. => false
  | .strbRegPost .. => false
  | .strbtReg .. => false
  | .ldrbImmPre .. => false
  | .ldrbImmPost .. => false
  | .ldrbtImm .. => false
  | .ldrbRegPre .. => false
  | .ldrbRegPost .. => false
  | .ldrbtReg .. => false
  | .und .. => false
  | .ldmia .. => false
  | .stmia .. => false
  | .ldmib .. => false
  | .stmib .. => false
  | .ldmda .. => false
  | .stmda .. => false
  | .ldmdb .. => false
  | .stmdb .. => false
  | .b .. => false
  | .bl .. => false
  | .stc .. => false
  | .ldc .. => false
  | .cdp .. => false
  | .mcr .. => false
  | .mrc .. => false
  | .swi .. => false
  | .tLslImm .. => true
  | .tLsrImm .. => true
  | .tAsrImm .. => true
  | .tAddReg .. => true
  | .tSubReg .. => true
  | .tAddImm3 .. => true
  | .tSubImm3 .. => true
  | .tMovImm8 .. => true
  | .tCmpImm8 .. => true
  | .tAddImm8 .. => true
  | .tSubImm8 .. => true
  | .tAnd .. => true
  | .tEor .. => true
  | .tLslReg .. => true
  | .tLsrReg .. => true
  | .tAsrReg .. => true
  | .tAdc .. => true
  | .tSbc .. => true
  | .tRorReg .. => true
  | .tTst .. => true
  | .tNeg .. => true
  | .tCmpReg .. => true
  | .tCmn .. => true
  | .tOrr .. => true
  | .tMul .. => true
  | .tBic .. => true
  | .tMvn .. => true
  | .tAddHi .. => true
  | .tCmpHi .. => true
  | .tMovHi .. => true
  | .tBx .. => true
  | .tLdrPc .. => true
  | .tStrReg .. => true
  | .tStrbReg .. => true
  | .tLdrReg .. => true
  | .tLdrbReg .. => true
  | .tStrhReg .. => true
  | .tLdsbReg .. => true
  | .tLdrhReg .. => true
  | .tLdshReg .. => true
  | .tStrOff .. => true
  | .tLdrOff .. => true
  | .tStrbOff .. => true
  | .tLdrbOff .. => true
  | .tStrhOff .. => true
  | .tLdrhOff .. => true
  | .tStrSp .. => true
  | .tLdrSp .. => true
  | .tAddPc .. => true
  | .tAddSp .. => true
  | .tAdjustSp .. => true
  | .tPush .. => true
  | .tPop .. => true
  | .tStmia .. => true
  | .tLdmia .. => true
  | .tBeq .. => true
  | .tBne .. => true
  | .tBcs .. => true
  | .tBcc .. => true
  | .tBmi .. => true
  | .tBpl .. => true
  | .tBvs .. => true
  | .tBvc .. => true
  | .tBhi .. => true
  | .tBls .. => true
  | .tBge .. => true
  | .tBlt .. => true
  | .tBgt .. => true
  | .tBle .. => true
  | .tUnd .. => true
  | .tSwi .. => true
  | .tB .. => true
  | .tBlPrefix .. => true
  | .tBlSuffix .. => true

/-- The instruction's width W in bytes (R16, R300). -/
def Instr.width (i : Instr) : Nat := if i.isThumb then 2 else 4

end Sys2Proof
end

