-- ==== Sys2Proof/WellFormed.lean ====
section
/-! DEFINITION. Well-formed instructions: the should-be-zero fields are zero (R375, R323, R452) and no register choice is one
the encoding alone makes UNPREDICTABLE with no alternative (93 section 1, "fault always"). The decoder accepts ill-formed
instructions too; the machine gives them what the spec says (ignored fields, faults). -/

namespace Sys2Proof

/-- The should-be-zero fields the decoder ignores (R375) are zero. -/
def Instr.sbzClear : Instr → Bool
  | .tstImm _ _ rd _ _ => rd = 0#4
  | .tstShiftImm _ _ rd _ _ _ => rd = 0#4
  | .tstShiftReg _ _ rd _ _ _ => rd = 0#4
  | .teqImm _ _ rd _ _ => rd = 0#4
  | .teqShiftImm _ _ rd _ _ _ => rd = 0#4
  | .teqShiftReg _ _ rd _ _ _ => rd = 0#4
  | .cmpImm _ _ rd _ _ => rd = 0#4
  | .cmpShiftImm _ _ rd _ _ _ => rd = 0#4
  | .cmpShiftReg _ _ rd _ _ _ => rd = 0#4
  | .cmnImm _ _ rd _ _ => rd = 0#4
  | .cmnShiftImm _ _ rd _ _ _ => rd = 0#4
  | .cmnShiftReg _ _ rd _ _ _ => rd = 0#4
  | .movImm _ _ rn _ _ _ => rn = 0#4
  | .movShiftImm _ _ rn _ _ _ _ => rn = 0#4
  | .movShiftReg _ _ rn _ _ _ _ => rn = 0#4
  | .mvnImm _ _ rn _ _ _ => rn = 0#4
  | .mvnShiftImm _ _ rn _ _ _ _ => rn = 0#4
  | .mvnShiftReg _ _ rn _ _ _ _ => rn = 0#4
  | .mul _ _ _ rn _ _ => rn = 0#4
  | .strhPre _ _ im _ _ _ hi _ => im || hi = 0#4
  | .strhPost _ _ im _ _ hi _ => im || hi = 0#4
  | .ldrhPre _ _ im _ _ _ hi _ => im || hi = 0#4
  | .ldrhPost _ _ im _ _ hi _ => im || hi = 0#4
  | .ldrsbPre _ _ im _ _ _ hi _ => im || hi = 0#4
  | .ldrsbPost _ _ im _ _ hi _ => im || hi = 0#4
  | .ldrshPre _ _ im _ _ _ hi _ => im || hi = 0#4
  | .ldrshPost _ _ im _ _ hi _ => im || hi = 0#4
  | .tBx _ sbz => sbz = 0#3
  | _ => true

/-- No register choice fixed by the encoding is a fault on every path: MrsPc, MsrPc, MulPc, MullRdHiEqRdLo, MullPc, SwpPc,
WbPc, LoadBytePc, LoadHalfPc, ThumbEmptyRegList (R503, R515, R560, R565, R601, R611, R625, R632, R774). -/
def Instr.registersAllowed : Instr → Bool
  | .mrs _ _ rd => rd ≠ 15#4
  | .msrReg _ _ _ rm => rm ≠ 15#4
  | .mul _ _ rd _ rs rm => rd ≠ 15#4 && rs ≠ 15#4 && rm ≠ 15#4
  | .mla _ _ rd rn rs rm => rd ≠ 15#4 && rn ≠ 15#4 && rs ≠ 15#4 && rm ≠ 15#4
  | .umull _ _ rdHi rdLo rs rm => rdHi ≠ rdLo && rdHi ≠ 15#4 && rdLo ≠ 15#4 && rs ≠ 15#4 && rm ≠ 15#4
  | .umlal _ _ rdHi rdLo rs rm => rdHi ≠ rdLo && rdHi ≠ 15#4 && rdLo ≠ 15#4 && rs ≠ 15#4 && rm ≠ 15#4
  | .smull _ _ rdHi rdLo rs rm => rdHi ≠ rdLo && rdHi ≠ 15#4 && rdLo ≠ 15#4 && rs ≠ 15#4 && rm ≠ 15#4
  | .smlal _ _ rdHi rdLo rs rm => rdHi ≠ rdLo && rdHi ≠ 15#4 && rdLo ≠ 15#4 && rs ≠ 15#4 && rm ≠ 15#4
  | .swp _ rn rd rm => rn ≠ 15#4 && rd ≠ 15#4 && rm ≠ 15#4
  | .swpb _ rn rd rm => rn ≠ 15#4 && rd ≠ 15#4 && rm ≠ 15#4
  | .strhPre _ _ _ w rn _ _ _ => !(w && rn = 15#4)
  | .strhPost _ _ _ rn _ _ _ => rn ≠ 15#4
  | .ldrhPre _ _ _ w rn rd _ _ => !(w && rn = 15#4) && rd ≠ 15#4
  | .ldrhPost _ _ _ rn rd _ _ => rn ≠ 15#4 && rd ≠ 15#4
  | .ldrsbPre _ _ _ w rn rd _ _ => !(w && rn = 15#4) && rd ≠ 15#4
  | .ldrsbPost _ _ _ rn rd _ _ => rn ≠ 15#4 && rd ≠ 15#4
  | .ldrshPre _ _ _ w rn rd _ _ => !(w && rn = 15#4) && rd ≠ 15#4
  | .ldrshPost _ _ _ rn rd _ _ => rn ≠ 15#4 && rd ≠ 15#4
  | .strImmPre _ _ w rn _ _ => !(w && rn = 15#4)
  | .strImmPost _ _ rn _ _ => rn ≠ 15#4
  | .strtImm _ _ rn _ _ => rn ≠ 15#4
  | .strRegPre _ _ w rn _ _ _ _ => !(w && rn = 15#4)
  | .strRegPost _ _ rn _ _ _ _ => rn ≠ 15#4
  | .strtReg _ _ rn _ _ _ _ => rn ≠ 15#4
  | .ldrImmPre _ _ w rn _ _ => !(w && rn = 15#4)
  | .ldrImmPost _ _ rn _ _ => rn ≠ 15#4
  | .ldrtImm _ _ rn _ _ => rn ≠ 15#4
  | .ldrRegPre _ _ w rn _ _ _ _ => !(w && rn = 15#4)
  | .ldrRegPost _ _ rn _ _ _ _ => rn ≠ 15#4
  | .ldrtReg _ _ rn _ _ _ _ => rn ≠ 15#4
  | .strbImmPre _ _ w rn _ _ => !(w && rn = 15#4)
  | .strbImmPost _ _ rn _ _ => rn ≠ 15#4
  | .strbtImm _ _ rn _ _ => rn ≠ 15#4
  | .strbRegPre _ _ w rn _ _ _ _ => !(w && rn = 15#4)
  | .strbRegPost _ _ rn _ _ _ _ => rn ≠ 15#4
  | .strbtReg _ _ rn _ _ _ _ => rn ≠ 15#4
  | .ldrbImmPre _ _ w rn rd _ => !(w && rn = 15#4) && rd ≠ 15#4
  | .ldrbImmPost _ _ rn rd _ => rn ≠ 15#4 && rd ≠ 15#4
  | .ldrbtImm _ _ rn rd _ => rn ≠ 15#4 && rd ≠ 15#4
  | .ldrbRegPre _ _ w rn rd _ _ _ => !(w && rn = 15#4) && rd ≠ 15#4
  | .ldrbRegPost _ _ rn rd _ _ _ => rn ≠ 15#4 && rd ≠ 15#4
  | .ldrbtReg _ _ rn rd _ _ _ => rn ≠ 15#4 && rd ≠ 15#4
  | .tPush r list => r || list ≠ 0#8
  | .tPop r list => r || list ≠ 0#8
  | .tStmia _ list => list ≠ 0#8
  | .tLdmia _ list => list ≠ 0#8
  | _ => true

/-- Both checks. -/
def Instr.wellFormed (i : Instr) : Bool := i.sbzClear && i.registersAllowed

end Sys2Proof
end

