-- ==== Sys2Proof/Decode.lean ====
section
/-! DEFINITION. The decoder (R300 to R303, R329, R340, R370 to R375), total on every word, and after it the encoder, both
written from the encoding tables of 30_encoding.md. A word that matches no row is refused by name (R301). -/

namespace Sys2Proof

/-! ### Fields -/

/-- Bit `i` of a word. -/
def bitAt {m : Nat} (w : BitVec m) (i : Nat) : Bool := w.getLsbD i

/-- The field of `n` bits whose lowest bit is `lo`. -/
def field {m : Nat} (w : BitVec m) (lo n : Nat) : BitVec n := w.extractLsb' lo n

/-- A word of `m` bits with `x` in the field whose lowest bit is `lo`, zero elsewhere. -/
def put {n : Nat} (m lo : Nat) (x : BitVec n) : BitVec m := x.setWidth m <<< lo

/-- A word with the single bit `lo` equal to `b`. -/
def putBit (m lo : Nat) (b : Bool) : BitVec m := put m lo (BitVec.ofBool b)

/-- The condition a field encodes (R411). -/
def Cond.ofBits (b : BitVec 4) : Cond :=
  match b.toNat with
  | 0 => .eq | 1 => .ne | 2 => .cs | 3 => .cc | 4 => .mi | 5 => .pl | 6 => .vs | 7 => .vc
  | 8 => .hi | 9 => .ls | 10 => .ge | 11 => .lt | 12 => .gt | 13 => .le | 14 => .al | _ => .nv

/-- The field that encodes a condition (R411). -/
def Cond.toBits : Cond → BitVec 4
  | .eq => 0 | .ne => 1 | .cs => 2 | .cc => 3 | .mi => 4 | .pl => 5 | .vs => 6 | .vc => 7
  | .hi => 8 | .ls => 9 | .ge => 10 | .lt => 11 | .gt => 12 | .le => 13 | .al => 14 | .nv => 15

/-- The shift a `sh` field encodes (R303). -/
def ShiftKind.ofBits (b : BitVec 2) : ShiftKind :=
  match b.toNat with
  | 0 => .lsl | 1 => .lsr | 2 => .asr | _ => .ror

/-- The `sh` field of a shift (R303). -/
def ShiftKind.toBits : ShiftKind → BitVec 2
  | .lsl => 0 | .lsr => 1 | .asr => 2 | .ror => 3

/-- The data-processing opcode bits 24:21 encode (R303). -/
def DpOp.ofBits (b : BitVec 4) : DpOp :=
  match b.toNat with
  | 0 => .and | 1 => .eor | 2 => .sub | 3 => .rsb | 4 => .add | 5 => .adc | 6 => .sbc | 7 => .rsc
  | 8 => .tst | 9 => .teq | 10 => .cmp | 11 => .cmn | 12 => .orr | 13 => .mov | 14 => .bic | _ => .mvn

/-- Bits 24:21 of a data-processing opcode (R303). -/
def DpOp.toBits : DpOp → BitVec 4
  | .and => 0 | .eor => 1 | .sub => 2 | .rsb => 3 | .add => 4 | .adc => 5 | .sbc => 6 | .rsc => 7
  | .tst => 8 | .teq => 9 | .cmp => 10 | .cmn => 11 | .orr => 12 | .mov => 13 | .bic => 14 | .mvn => 15

/-! ### The ARM decoder -/

/-- The DP immediate row of an opcode (R302); the compares have no S argument (S = 1 in their rows). -/
def Instr.dpImm (op : DpOp) (c : Cond) (f : Bool) (rn rd : RegNum) (rot : BitVec 4) (imm : BitVec 8) : Instr :=
  match op with
  | .and => .andImm c f rn rd rot imm
  | .eor => .eorImm c f rn rd rot imm
  | .sub => .subImm c f rn rd rot imm
  | .rsb => .rsbImm c f rn rd rot imm
  | .add => .addImm c f rn rd rot imm
  | .adc => .adcImm c f rn rd rot imm
  | .sbc => .sbcImm c f rn rd rot imm
  | .rsc => .rscImm c f rn rd rot imm
  | .tst => .tstImm c rn rd rot imm
  | .teq => .teqImm c rn rd rot imm
  | .cmp => .cmpImm c rn rd rot imm
  | .cmn => .cmnImm c rn rd rot imm
  | .orr => .orrImm c f rn rd rot imm
  | .mov => .movImm c f rn rd rot imm
  | .bic => .bicImm c f rn rd rot imm
  | .mvn => .mvnImm c f rn rd rot imm

/-- The DP immediate-shift row of an opcode (R302). -/
def Instr.dpShiftImm (op : DpOp) (c : Cond) (f : Bool) (rn rd : RegNum) (amt : BitVec 5) (sh : ShiftKind) (rm : RegNum) : Instr :=
  match op with
  | .and => .andShiftImm c f rn rd amt sh rm
  | .eor => .eorShiftImm c f rn rd amt sh rm
  | .sub => .subShiftImm c f rn rd amt sh rm
  | .rsb => .rsbShiftImm c f rn rd amt sh rm
  | .add => .addShiftImm c f rn rd amt sh rm
  | .adc => .adcShiftImm c f rn rd amt sh rm
  | .sbc => .sbcShiftImm c f rn rd amt sh rm
  | .rsc => .rscShiftImm c f rn rd amt sh rm
  | .tst => .tstShiftImm c rn rd amt sh rm
  | .teq => .teqShiftImm c rn rd amt sh rm
  | .cmp => .cmpShiftImm c rn rd amt sh rm
  | .cmn => .cmnShiftImm c rn rd amt sh rm
  | .orr => .orrShiftImm c f rn rd amt sh rm
  | .mov => .movShiftImm c f rn rd amt sh rm
  | .bic => .bicShiftImm c f rn rd amt sh rm
  | .mvn => .mvnShiftImm c f rn rd amt sh rm

/-- The DP register-shift row of an opcode (R302). -/
def Instr.dpShiftReg (op : DpOp) (c : Cond) (f : Bool) (rn rd : RegNum) (rs : RegNum) (sh : ShiftKind) (rm : RegNum) : Instr :=
  match op with
  | .and => .andShiftReg c f rn rd rs sh rm
  | .eor => .eorShiftReg c f rn rd rs sh rm
  | .sub => .subShiftReg c f rn rd rs sh rm
  | .rsb => .rsbShiftReg c f rn rd rs sh rm
  | .add => .addShiftReg c f rn rd rs sh rm
  | .adc => .adcShiftReg c f rn rd rs sh rm
  | .sbc => .sbcShiftReg c f rn rd rs sh rm
  | .rsc => .rscShiftReg c f rn rd rs sh rm
  | .tst => .tstShiftReg c rn rd rs sh rm
  | .teq => .teqShiftReg c rn rd rs sh rm
  | .cmp => .cmpShiftReg c rn rd rs sh rm
  | .cmn => .cmnShiftReg c rn rd rs sh rm
  | .orr => .orrShiftReg c f rn rd rs sh rm
  | .mov => .movShiftReg c f rn rd rs sh rm
  | .bic => .bicShiftReg c f rn rd rs sh rm
  | .mvn => .mvnShiftReg c f rn rd rs sh rm

/-- Bits 27:25 = 000, bit 4 = 0: the DP immediate-shift rows, and in the holes the compare opcodes leave at S = 0
(R302, R371(a)) MRS and MSR register, whose fixed fields match exactly (R375). -/
def decodeArmShiftImm (w : Word) (c : Cond) : Option Instr :=
  let op := DpOp.ofBits (field w 21 4)
  if op.isCompare && !bitAt w 20 then
    match op with
    | .tst => if field w 16 4 = 15#4 && field w 0 12 = 0#12 then some (.mrs c false (field w 12 4)) else none
    | .cmp => if field w 16 4 = 15#4 && field w 0 12 = 0#12 then some (.mrs c true (field w 12 4)) else none
    | .teq => if field w 12 4 = 15#4 && field w 4 8 = 0#8 then some (.msrReg c false (field w 16 4) (field w 0 4)) else none
    | _ => if field w 12 4 = 15#4 && field w 4 8 = 0#8 then some (.msrReg c true (field w 16 4) (field w 0 4)) else none
  else
    some (.dpShiftImm op c (bitAt w 20) (field w 16 4) (field w 12 4) (field w 7 5) (ShiftKind.ofBits (field w 5 2)) (field w 0 4))

/-- Bits 27:25 = 000, bit 7 = 0, bit 4 = 1: the DP register-shift rows, and BX (R302, R375). -/
def decodeArmShiftReg (w : Word) (c : Cond) : Option Instr :=
  let op := DpOp.ofBits (field w 21 4)
  if op.isCompare && !bitAt w 20 then
    if op = .teq && field w 8 12 = 0xFFF#12 && field w 5 2 = 0#2 then some (.bx c (field w 0 4)) else none
  else
    some (.dpShiftReg op c (bitAt w 20) (field w 16 4) (field w 12 4) (field w 8 4) (ShiftKind.ofBits (field w 5 2)) (field w 0 4))

/-- Bits 27:25 = 000, bits 7:4 = 1001: the multiplies and the swaps by bits 24:20 (R302, R371(d), (e)). -/
def decodeArmMultiply (w : Word) (c : Cond) : Option Instr :=
  let f := bitAt w 20
  let a := field w 16 4
  let b := field w 12 4
  let rs := field w 8 4
  let rm := field w 0 4
  match (field w 21 4).toNat with
  | 0 => some (.mul c f a b rs rm)
  | 1 => some (.mla c f a b rs rm)
  | 4 => some (.umull c f a b rs rm)
  | 5 => some (.umlal c f a b rs rm)
  | 6 => some (.smull c f a b rs rm)
  | 7 => some (.smlal c f a b rs rm)
  | 8 => if !f && rs = 0#4 then some (.swp c a b rm) else none
  | 10 => if !f && rs = 0#4 then some (.swpb c a b rm) else none
  | _ => none

/-- Bits 27:25 = 000, bit 7 = bit 4 = 1, bits 6:5 not 00: the halfword and signed transfers (R302). The stores of
signed kinds (R371(f)) and the holes P = 0, W = 1 (R329) have no row. -/
def decodeArmHalf (w : Word) (c : Cond) : Option Instr :=
  let u := bitAt w 23
  let im := bitAt w 22
  let wb := bitAt w 21
  let rn := field w 16 4
  let rd := field w 12 4
  let hi := field w 8 4
  let lo := field w 0 4
  match bitAt w 24, bitAt w 20, (field w 5 2).toNat with
  | true, false, 1 => some (.strhPre c u im wb rn rd hi lo)
  | true, true, 1 => some (.ldrhPre c u im wb rn rd hi lo)
  | true, true, 2 => some (.ldrsbPre c u im wb rn rd hi lo)
  | true, true, 3 => some (.ldrshPre c u im wb rn rd hi lo)
  | false, false, 1 => if wb then none else some (.strhPost c u im rn rd hi lo)
  | false, true, 1 => if wb then none else some (.ldrhPost c u im rn rd hi lo)
  | false, true, 2 => if wb then none else some (.ldrsbPost c u im rn rd hi lo)
  | false, true, 3 => if wb then none else some (.ldrshPost c u im rn rd hi lo)
  | _, _, _ => none

/-- Bits 27:25 = 001: the DP immediate rows, and MSR immediate where its field of ones matches (R302, R371(b), (c)). -/
def decodeArmDpImm (w : Word) (c : Cond) : Option Instr :=
  let op := DpOp.ofBits (field w 21 4)
  if op.isCompare && !bitAt w 20 then
    match op with
    | .teq => if field w 12 4 = 15#4 then some (.msrImm c false (field w 16 4) (field w 8 4) (field w 0 8)) else none
    | .cmn => if field w 12 4 = 15#4 then some (.msrImm c true (field w 16 4) (field w 8 4) (field w 0 8)) else none
    | _ => none
  else
    some (.dpImm op c (bitAt w 20) (field w 16 4) (field w 12 4) (field w 8 4) (field w 0 8))

/-- Bits 27:25 = 010: the single data transfers with an immediate offset, by P, B, W, L (R302, R303). -/
def decodeArmSdtImm (w : Word) (c : Cond) : Instr :=
  let u := bitAt w 23
  let wb := bitAt w 21
  let rn := field w 16 4
  let rd := field w 12 4
  let off := field w 0 12
  match bitAt w 24, bitAt w 22, bitAt w 20 with
  | true, false, false => .strImmPre c u wb rn rd off
  | true, false, true => .ldrImmPre c u wb rn rd off
  | true, true, false => .strbImmPre c u wb rn rd off
  | true, true, true => .ldrbImmPre c u wb rn rd off
  | false, false, false => if wb then .strtImm c u rn rd off else .strImmPost c u rn rd off
  | false, false, true => if wb then .ldrtImm c u rn rd off else .ldrImmPost c u rn rd off
  | false, true, false => if wb then .strbtImm c u rn rd off else .strbImmPost c u rn rd off
  | false, true, true => if wb then .ldrbtImm c u rn rd off else .ldrbImmPost c u rn rd off

/-- Bits 27:25 = 011, bit 4 = 0: the single data transfers with a shifted register offset (R302, R322). -/
def decodeArmSdtReg (w : Word) (c : Cond) : Instr :=
  let u := bitAt w 23
  let wb := bitAt w 21
  let rn := field w 16 4
  let rd := field w 12 4
  let amt := field w 7 5
  let sh := ShiftKind.ofBits (field w 5 2)
  let rm := field w 0 4
  match bitAt w 24, bitAt w 22, bitAt w 20 with
  | true, false, false => .strRegPre c u wb rn rd amt sh rm
  | true, false, true => .ldrRegPre c u wb rn rd amt sh rm
  | true, true, false => .strbRegPre c u wb rn rd amt sh rm
  | true, true, true => .ldrbRegPre c u wb rn rd amt sh rm
  | false, false, false => if wb then .strtReg c u rn rd amt sh rm else .strRegPost c u rn rd amt sh rm
  | false, false, true => if wb then .ldrtReg c u rn rd amt sh rm else .ldrRegPost c u rn rd amt sh rm
  | false, true, false => if wb then .strbtReg c u rn rd amt sh rm else .strbRegPost c u rn rd amt sh rm
  | false, true, true => if wb then .ldrbtReg c u rn rd amt sh rm else .ldrbRegPost c u rn rd amt sh rm

/-- Bits 27:25 = 100: the block transfers by P, U, L (R302, R650). -/
def decodeArmBlock (w : Word) (c : Cond) : Instr :=
  let ub := bitAt w 22
  let wb := bitAt w 21
  let rn := field w 16 4
  let list := field w 0 16
  match bitAt w 24, bitAt w 23, bitAt w 20 with
  | false, true, true => .ldmia c ub wb rn list
  | false, true, false => .stmia c ub wb rn list
  | true, true, true => .ldmib c ub wb rn list
  | true, true, false => .stmib c ub wb rn list
  | false, false, true => .ldmda c ub wb rn list
  | false, false, false => .stmda c ub wb rn list
  | true, false, true => .ldmdb c ub wb rn list
  | true, false, false => .stmdb c ub wb rn list

/-- Bits 27:25 = 111: the software interrupt and the coprocessor operations and register transfers (R302, R374). -/
def decodeArmSwiCoproc (w : Word) (c : Cond) : Instr :=
  if bitAt w 24 then .swi c (field w 0 24)
  else if bitAt w 4 then
    if bitAt w 20 then .mrc c (field w 21 3) (field w 16 4) (field w 12 4) (field w 8 4) (field w 5 3) (field w 0 4)
    else .mcr c (field w 21 3) (field w 16 4) (field w 12 4) (field w 8 4) (field w 5 3) (field w 0 4)
  else .cdp c (field w 20 4) (field w 16 4) (field w 12 4) (field w 8 4) (field w 5 3) (field w 0 4)

/-- The ARM decoder (R301): the instruction a word encodes, or `none` where no row of the opcode table matches. -/
def decodeArm (w : Word) : Option Instr :=
  let c := Cond.ofBits (field w 28 4)
  match (field w 25 3).toNat with
  | 0 =>
    if !bitAt w 4 then decodeArmShiftImm w c
    else if !bitAt w 7 then decodeArmShiftReg w c
    else if field w 5 2 = 0#2 then decodeArmMultiply w c
    else decodeArmHalf w c
  | 1 => decodeArmDpImm w c
  | 2 => some (decodeArmSdtImm w c)
  | 3 => some (if bitAt w 4 then .und c (field w 5 20) (field w 0 4) else decodeArmSdtReg w c)
  | 4 => some (decodeArmBlock w c)
  | 5 => some (if bitAt w 24 then .bl c (field w 0 24) else .b c (field w 0 24))
  | 6 =>
    some (if bitAt w 20 then .ldc c (field w 21 4) (field w 16 4) (field w 12 4) (field w 8 4) (field w 0 8)
      else .stc c (field w 21 4) (field w 16 4) (field w 12 4) (field w 8 4) (field w 0 8))
  | _ => some (decodeArmSwiCoproc w c)

/-! ### The Thumb decoder -/

/-- Format 4, op = bits 9:6 (R340). -/
def decodeThumbAlu (h : Half) : Instr :=
  let rs := field h 3 3
  let rd := field h 0 3
  match (field h 6 4).toNat with
  | 0 => .tAnd rs rd
  | 1 => .tEor rs rd
  | 2 => .tLslReg rs rd
  | 3 => .tLsrReg rs rd
  | 4 => .tAsrReg rs rd
  | 5 => .tAdc rs rd
  | 6 => .tSbc rs rd
  | 7 => .tRorReg rs rd
  | 8 => .tTst rs rd
  | 9 => .tNeg rs rd
  | 10 => .tCmpReg rs rd
  | 11 => .tCmn rs rd
  | 12 => .tOrr rs rd
  | 13 => .tMul rs rd
  | 14 => .tBic rs rd
  | _ => .tMvn rs rd

/-- A register number of format 5: the high bit and the low three (R340). -/
def hiReg (h : Bool) (r : BitVec 3) : RegNum := BitVec.ofBool h ++ r

/-- Format 5, op = bits 9:8; BX with H1 = 1 has no row (R340, R372). -/
def decodeThumbHi (h : Half) : Option Instr :=
  let m := hiReg (bitAt h 6) (field h 3 3)
  let d := hiReg (bitAt h 7) (field h 0 3)
  match (field h 8 2).toNat with
  | 0 => some (.tAddHi m d)
  | 1 => some (.tCmpHi m d)
  | 2 => some (.tMovHi m d)
  | _ => if bitAt h 7 then none else some (.tBx m (field h 0 3))

/-- Formats 7 and 8, by bits 11, 10 and 9 (R340). -/
def decodeThumbRegOffset (h : Half) : Instr :=
  let ro := field h 6 3
  let rb := field h 3 3
  let rd := field h 0 3
  match bitAt h 11, bitAt h 10, bitAt h 9 with
  | false, false, false => .tStrReg ro rb rd
  | false, true, false => .tStrbReg ro rb rd
  | true, false, false => .tLdrReg ro rb rd
  | true, true, false => .tLdrbReg ro rb rd
  | false, false, true => .tStrhReg ro rb rd
  | false, true, true => .tLdsbReg ro rb rd
  | true, false, true => .tLdrhReg ro rb rd
  | true, true, true => .tLdshReg ro rb rd

/-- Format 16 with cond below 1000 (R340, R785). -/
def decodeThumbCondLow (h : Half) : Instr :=
  let off := field h 0 8
  match (field h 8 3).toNat with
  | 0 => .tBeq off
  | 1 => .tBne off
  | 2 => .tBcs off
  | 3 => .tBcc off
  | 4 => .tBmi off
  | 5 => .tBpl off
  | 6 => .tBvs off
  | _ => .tBvc off

/-- Format 16 with cond from 1000 on, the undefined row of cond 1110, and format 17 (R340, R786, R787). -/
def decodeThumbCondHigh (h : Half) : Instr :=
  let off := field h 0 8
  match (field h 8 3).toNat with
  | 0 => .tBhi off
  | 1 => .tBls off
  | 2 => .tBge off
  | 3 => .tBlt off
  | 4 => .tBgt off
  | 5 => .tBle off
  | 6 => .tUnd off
  | _ => .tSwi off

/-- The Thumb decoder (R301): the instruction a halfword encodes, or `none` where no row matches (R372). -/
def decodeThumb (h : Half) : Option Instr :=
  match (field h 11 5).toNat with
  | 0 => some (.tLslImm (field h 6 5) (field h 3 3) (field h 0 3))
  | 1 => some (.tLsrImm (field h 6 5) (field h 3 3) (field h 0 3))
  | 2 => some (.tAsrImm (field h 6 5) (field h 3 3) (field h 0 3))
  | 3 =>
    match bitAt h 10, bitAt h 9 with
    | false, false => some (.tAddReg (field h 6 3) (field h 3 3) (field h 0 3))
    | false, true => some (.tSubReg (field h 6 3) (field h 3 3) (field h 0 3))
    | true, false => some (.tAddImm3 (field h 6 3) (field h 3 3) (field h 0 3))
    | true, true => some (.tSubImm3 (field h 6 3) (field h 3 3) (field h 0 3))
  | 4 => some (.tMovImm8 (field h 8 3) (field h 0 8))
  | 5 => some (.tCmpImm8 (field h 8 3) (field h 0 8))
  | 6 => some (.tAddImm8 (field h 8 3) (field h 0 8))
  | 7 => some (.tSubImm8 (field h 8 3) (field h 0 8))
  | 8 => if bitAt h 10 then decodeThumbHi h else some (decodeThumbAlu h)
  | 9 => some (.tLdrPc (field h 8 3) (field h 0 8))
  | 10 => some (decodeThumbRegOffset h)
  | 11 => some (decodeThumbRegOffset h)
  | 12 => some (.tStrOff (field h 6 5) (field h 3 3) (field h 0 3))
  | 13 => some (.tLdrOff (field h 6 5) (field h 3 3) (field h 0 3))
  | 14 => some (.tStrbOff (field h 6 5) (field h 3 3) (field h 0 3))
  | 15 => some (.tLdrbOff (field h 6 5) (field h 3 3) (field h 0 3))
  | 16 => some (.tStrhOff (field h 6 5) (field h 3 3) (field h 0 3))
  | 17 => some (.tLdrhOff (field h 6 5) (field h 3 3) (field h 0 3))
  | 18 => some (.tStrSp (field h 8 3) (field h 0 8))
  | 19 => some (.tLdrSp (field h 8 3) (field h 0 8))
  | 20 => some (.tAddPc (field h 8 3) (field h 0 8))
  | 21 => some (.tAddSp (field h 8 3) (field h 0 8))
  | 22 =>
    if field h 9 2 = 0#2 && !bitAt h 8 then some (.tAdjustSp (bitAt h 7) (field h 0 7))
    else if field h 9 2 = 2#2 then some (.tPush (bitAt h 8) (field h 0 8))
    else none
  | 23 => if field h 9 2 = 2#2 then some (.tPop (bitAt h 8) (field h 0 8)) else none
  | 24 => some (.tStmia (field h 8 3) (field h 0 8))
  | 25 => some (.tLdmia (field h 8 3) (field h 0 8))
  | 26 => some (decodeThumbCondLow h)
  | 27 => some (decodeThumbCondHigh h)
  | 28 => some (.tB (field h 0 11))
  | 29 => none
  | 30 => some (.tBlPrefix (field h 0 11))
  | _ => some (.tBlSuffix (field h 0 11))

/-! ### Words and bytes -/

/-- The code of one instruction: an ARM word or a Thumb halfword (R300). -/
inductive Code where
  | arm (w : Word)
  | thumb (h : Half)
  deriving DecidableEq, Repr, Inhabited

/-- The instruction a code word encodes. -/
def decode : Code → Option Instr
  | .arm w => decodeArm w
  | .thumb h => decodeThumb h

/-- The bytes of a code word, lowest address first: little-endian (R205). -/
def Code.bytes : Code → List Byte
  | .arm w => [field w 0 8, field w 8 8, field w 16 8, field w 24 8]
  | .thumb h => [field h 0 8, field h 8 8]

/-- Why bytes do not decode. -/
inductive DecodeError where
  /-- Fewer bytes than the instruction's fixed length. -/
  | truncated
  /-- No row of the opcode table matches (R301, R371, R372). -/
  | unallocated (k : Code)
  deriving DecidableEq, Repr

/-- The code word at the front of a list of bytes, in ARM or Thumb state (R203, R205), and the bytes after it. -/
def takeCode (thumb : Bool) (bs : List Byte) : Option (Code × List Byte) :=
  match thumb, bs with
  | false, b0 :: b1 :: b2 :: b3 :: rest =>
    some (.arm (put 32 0 b0 ||| put 32 8 b1 ||| put 32 16 b2 ||| put 32 24 b3), rest)
  | true, b0 :: b1 :: rest => some (.thumb (put 16 0 b0 ||| put 16 8 b1), rest)
  | _, _ => none

/-- Decoding any bytes: the instruction and the rest, or a refusal by name. -/
def decodeBytes (thumb : Bool) (bs : List Byte) : Except DecodeError (Instr × List Byte) :=
  match takeCode thumb bs with
  | none => .error .truncated
  | some (k, rest) =>
    match decode k with
    | none => .error (.unallocated k)
    | some i => .ok (i, rest)

/-- The code word of a number in the opcode table's numbering: rows of 16 bits are Thumb halfwords, the others ARM words. -/
def codeOfTable (nbits w : Nat) : Code :=
  if nbits ≤ 16 then .thumb (BitVec.ofNat 16 w) else .arm (BitVec.ofNat 32 w)

/-- The instruction the decoder reads from the bytes of a table word, laid out as the hardware stores them. -/
def decodeTableWord (nbits w : Nat) : Option Instr :=
  match decodeBytes (nbits ≤ 16) (codeOfTable nbits w).bytes with
  | .ok (i, _) => some i
  | .error _ => none

/-! ### The encoder -/

/-- A DP immediate word (R302). -/
def dpImmWord (op : BitVec 4) (c : Cond) (f : Bool) (rn rd : RegNum) (rot : BitVec 4) (imm : BitVec 8) : Word :=
  put 32 28 c.toBits ||| put 32 25 1#3 ||| put 32 21 op ||| putBit 32 20 f ||| put 32 16 rn ||| put 32 12 rd |||
    put 32 8 rot ||| put 32 0 imm

/-- A DP register word with an immediate shift (R302). -/
def dpShiftImmWord (op : BitVec 4) (c : Cond) (f : Bool) (rn rd : RegNum) (amt : BitVec 5) (sh : ShiftKind) (rm : RegNum) : Word :=
  put 32 28 c.toBits ||| put 32 21 op ||| putBit 32 20 f ||| put 32 16 rn ||| put 32 12 rd ||| put 32 7 amt |||
    put 32 5 sh.toBits ||| put 32 0 rm

/-- A DP register word with a register shift: bit 7 = 0, bit 4 = 1 (R302). -/
def dpShiftRegWord (op : BitVec 4) (c : Cond) (f : Bool) (rn rd rs : RegNum) (sh : ShiftKind) (rm : RegNum) : Word :=
  put 32 28 c.toBits ||| put 32 21 op ||| putBit 32 20 f ||| put 32 16 rn ||| put 32 12 rd ||| put 32 8 rs |||
    put 32 5 sh.toBits ||| put 32 4 1#1 ||| put 32 0 rm

/-- A multiply or swap word: bits 7:4 = 1001 (R302). -/
def multiplyWord (op : BitVec 4) (c : Cond) (f : Bool) (a b rs rm : RegNum) : Word :=
  put 32 28 c.toBits ||| put 32 21 op ||| putBit 32 20 f ||| put 32 16 a ||| put 32 12 b ||| put 32 8 rs |||
    put 32 7 1#1 ||| put 32 4 1#1 ||| put 32 0 rm

/-- A halfword or signed transfer word: bit 7 = bit 4 = 1, `kind` = S, H (R302). -/
def halfWord (kind : BitVec 2) (c : Cond) (p u im w l : Bool) (rn rd : RegNum) (hi lo : BitVec 4) : Word :=
  put 32 28 c.toBits ||| putBit 32 24 p ||| putBit 32 23 u ||| putBit 32 22 im ||| putBit 32 21 w ||| putBit 32 20 l |||
    put 32 16 rn ||| put 32 12 rd ||| put 32 8 hi ||| put 32 7 1#1 ||| put 32 5 kind ||| put 32 4 1#1 ||| put 32 0 lo

/-- A single data transfer word with an immediate offset (R302). -/
def sdtImmWord (c : Cond) (p u b w l : Bool) (rn rd : RegNum) (off : BitVec 12) : Word :=
  put 32 28 c.toBits ||| put 32 25 2#3 ||| putBit 32 24 p ||| putBit 32 23 u ||| putBit 32 22 b ||| putBit 32 21 w |||
    putBit 32 20 l ||| put 32 16 rn ||| put 32 12 rd ||| put 32 0 off

/-- A single data transfer word with a register offset: bit 4 = 0 (R302). -/
def sdtRegWord (c : Cond) (p u b w l : Bool) (rn rd : RegNum) (amt : BitVec 5) (sh : ShiftKind) (rm : RegNum) : Word :=
  put 32 28 c.toBits ||| put 32 25 3#3 ||| putBit 32 24 p ||| putBit 32 23 u ||| putBit 32 22 b ||| putBit 32 21 w |||
    putBit 32 20 l ||| put 32 16 rn ||| put 32 12 rd ||| put 32 7 amt ||| put 32 5 sh.toBits ||| put 32 0 rm

/-- A word of the architecturally undefined space: bits 27:25 = 011, bit 4 = 1 (R370). -/
def undWord (c : Cond) (hi : BitVec 20) (lo : BitVec 4) : Word :=
  put 32 28 c.toBits ||| put 32 25 3#3 ||| put 32 5 hi ||| put 32 4 1#1 ||| put 32 0 lo

/-- A block transfer word (R302). -/
def blockWord (c : Cond) (p u ub w l : Bool) (rn : RegNum) (list : BitVec 16) : Word :=
  put 32 28 c.toBits ||| put 32 25 4#3 ||| putBit 32 24 p ||| putBit 32 23 u ||| putBit 32 22 ub ||| putBit 32 21 w |||
    putBit 32 20 l ||| put 32 16 rn ||| put 32 0 list

/-- A branch word (R302). -/
def branchWord (c : Cond) (l : Bool) (off : BitVec 24) : Word :=
  put 32 28 c.toBits ||| put 32 25 5#3 ||| putBit 32 24 l ||| put 32 0 off

/-- A coprocessor data transfer word (R302). -/
def coprocTransferWord (c : Cond) (l : Bool) (ix : BitVec 4) (rn : RegNum) (crd cp : BitVec 4) (off : BitVec 8) : Word :=
  put 32 28 c.toBits ||| put 32 25 6#3 ||| put 32 21 ix ||| putBit 32 20 l ||| put 32 16 rn ||| put 32 12 crd |||
    put 32 8 cp ||| put 32 0 off

/-- A coprocessor data operation word: bit 24 = 0, bit 4 = 0 (R302). -/
def coprocOpWord (c : Cond) (op1 crn crd cp : BitVec 4) (op2 : BitVec 3) (crm : BitVec 4) : Word :=
  put 32 28 c.toBits ||| put 32 25 7#3 ||| put 32 20 op1 ||| put 32 16 crn ||| put 32 12 crd ||| put 32 8 cp |||
    put 32 5 op2 ||| put 32 0 crm

/-- A coprocessor register transfer word: bit 24 = 0, bit 4 = 1 (R302). -/
def coprocRegWord (c : Cond) (l : Bool) (op1 : BitVec 3) (crn : BitVec 4) (rd : RegNum) (cp : BitVec 4) (op2 : BitVec 3)
    (crm : BitVec 4) : Word :=
  put 32 28 c.toBits ||| put 32 25 7#3 ||| put 32 21 op1 ||| putBit 32 20 l ||| put 32 16 crn ||| put 32 12 rd |||
    put 32 8 cp ||| put 32 5 op2 ||| put 32 4 1#1 ||| put 32 0 crm

/-- A software interrupt word (R302). -/
def swiWord (c : Cond) (comment : BitVec 24) : Word :=
  put 32 28 c.toBits ||| put 32 25 7#3 ||| put 32 24 1#1 ||| put 32 0 comment

/-- An MRS word: bits 24:20 = 10R00, bits 19:16 = 1111, bits 11:0 = 0 (R302). -/
def mrsWord (c : Cond) (spsr : Bool) (rd : RegNum) : Word :=
  put 32 28 c.toBits ||| put 32 21 (if spsr then 0b1010#4 else 0b1000#4) ||| put 32 16 15#4 ||| put 32 12 rd

/-- An MSR register word: bits 24:20 = 10R10, bits 15:12 = 1111, bits 11:4 = 0 (R302). -/
def msrRegWord (c : Cond) (spsr : Bool) (mask : BitVec 4) (rm : RegNum) : Word :=
  put 32 28 c.toBits ||| put 32 21 (if spsr then 0b1011#4 else 0b1001#4) ||| put 32 16 mask ||| put 32 12 15#4 ||| put 32 0 rm

/-- An MSR immediate word: bits 27:20 = 00110R10, bits 15:12 = 1111 (R302). -/
def msrImmWord (c : Cond) (spsr : Bool) (mask rot : BitVec 4) (imm : BitVec 8) : Word :=
  put 32 28 c.toBits ||| put 32 25 1#3 ||| put 32 21 (if spsr then 0b1011#4 else 0b1001#4) ||| put 32 16 mask |||
    put 32 12 15#4 ||| put 32 8 rot ||| put 32 0 imm

/-- A BX word: bits 27:20 = 00010010, bits 19:8 = 0xFFF, bits 7:4 = 0001 (R302). -/
def bxWord (c : Cond) (rm : RegNum) : Word :=
  put 32 28 c.toBits ||| put 32 21 0b1001#4 ||| put 32 8 0xFFF#12 ||| put 32 4 1#1 ||| put 32 0 rm

/-- A Thumb halfword with a five-bit opcode, a five-bit field and two low registers (formats 1, 9, 10; R340). -/
def thumbWide (top : BitVec 5) (x : BitVec 5) (a b : BitVec 3) : Half :=
  put 16 11 top ||| put 16 6 x ||| put 16 3 a ||| put 16 0 b

/-- A Thumb halfword with three bits 11, 10, 9 below the opcode and three low registers (formats 2, 7, 8; R340). -/
def thumbThree (top : BitVec 5) (b10 b9 : Bool) (x a b : BitVec 3) : Half :=
  put 16 11 top ||| putBit 16 10 b10 ||| putBit 16 9 b9 ||| put 16 6 x ||| put 16 3 a ||| put 16 0 b

/-- A Thumb halfword with a low register and eight bits (formats 3, 6, 11, 12, 15; R340). -/
def thumbByte (top : BitVec 5) (r : BitVec 3) (x : BitVec 8) : Half :=
  put 16 11 top ||| put 16 8 r ||| put 16 0 x

/-- A format 4 halfword (R340). -/
def thumbAluWord (op : BitVec 4) (rs rd : LowReg) : Half :=
  put 16 11 8#5 ||| put 16 6 op ||| put 16 3 rs ||| put 16 0 rd

/-- A format 5 halfword: H1 = bit 7, H2 = bit 6 (R340). -/
def thumbHiWord (op : BitVec 2) (h1 : Bool) (m : RegNum) (lo : BitVec 3) : Half :=
  put 16 11 8#5 ||| putBit 16 10 true ||| put 16 8 op ||| putBit 16 7 h1 ||| putBit 16 6 (bitAt m 3) |||
    put 16 3 (field m 0 3) ||| put 16 0 lo

/-- A PUSH or POP halfword: bits 10:9 = 10 (R340). -/
def thumbStackWord (top : BitVec 5) (r : Bool) (list : BitVec 8) : Half :=
  put 16 11 top ||| put 16 9 2#2 ||| putBit 16 8 r ||| put 16 0 list

/-- A halfword with an eleven-bit offset (formats 18, 19; R340). -/
def thumbLong (top : BitVec 5) (off : BitVec 11) : Half :=
  put 16 11 top ||| put 16 0 off

/-- The code word of an instruction (R302, R303, R340). -/
def encode : Instr → Code
  | .andImm c f rn rd rot imm => .arm (dpImmWord DpOp.and.toBits c f rn rd rot imm)
  | .andShiftImm c f rn rd amt sh rm => .arm (dpShiftImmWord DpOp.and.toBits c f rn rd amt sh rm)
  | .andShiftReg c f rn rd rs sh rm => .arm (dpShiftRegWord DpOp.and.toBits c f rn rd rs sh rm)
  | .eorImm c f rn rd rot imm => .arm (dpImmWord DpOp.eor.toBits c f rn rd rot imm)
  | .eorShiftImm c f rn rd amt sh rm => .arm (dpShiftImmWord DpOp.eor.toBits c f rn rd amt sh rm)
  | .eorShiftReg c f rn rd rs sh rm => .arm (dpShiftRegWord DpOp.eor.toBits c f rn rd rs sh rm)
  | .subImm c f rn rd rot imm => .arm (dpImmWord DpOp.sub.toBits c f rn rd rot imm)
  | .subShiftImm c f rn rd amt sh rm => .arm (dpShiftImmWord DpOp.sub.toBits c f rn rd amt sh rm)
  | .subShiftReg c f rn rd rs sh rm => .arm (dpShiftRegWord DpOp.sub.toBits c f rn rd rs sh rm)
  | .rsbImm c f rn rd rot imm => .arm (dpImmWord DpOp.rsb.toBits c f rn rd rot imm)
  | .rsbShiftImm c f rn rd amt sh rm => .arm (dpShiftImmWord DpOp.rsb.toBits c f rn rd amt sh rm)
  | .rsbShiftReg c f rn rd rs sh rm => .arm (dpShiftRegWord DpOp.rsb.toBits c f rn rd rs sh rm)
  | .addImm c f rn rd rot imm => .arm (dpImmWord DpOp.add.toBits c f rn rd rot imm)
  | .addShiftImm c f rn rd amt sh rm => .arm (dpShiftImmWord DpOp.add.toBits c f rn rd amt sh rm)
  | .addShiftReg c f rn rd rs sh rm => .arm (dpShiftRegWord DpOp.add.toBits c f rn rd rs sh rm)
  | .adcImm c f rn rd rot imm => .arm (dpImmWord DpOp.adc.toBits c f rn rd rot imm)
  | .adcShiftImm c f rn rd amt sh rm => .arm (dpShiftImmWord DpOp.adc.toBits c f rn rd amt sh rm)
  | .adcShiftReg c f rn rd rs sh rm => .arm (dpShiftRegWord DpOp.adc.toBits c f rn rd rs sh rm)
  | .sbcImm c f rn rd rot imm => .arm (dpImmWord DpOp.sbc.toBits c f rn rd rot imm)
  | .sbcShiftImm c f rn rd amt sh rm => .arm (dpShiftImmWord DpOp.sbc.toBits c f rn rd amt sh rm)
  | .sbcShiftReg c f rn rd rs sh rm => .arm (dpShiftRegWord DpOp.sbc.toBits c f rn rd rs sh rm)
  | .rscImm c f rn rd rot imm => .arm (dpImmWord DpOp.rsc.toBits c f rn rd rot imm)
  | .rscShiftImm c f rn rd amt sh rm => .arm (dpShiftImmWord DpOp.rsc.toBits c f rn rd amt sh rm)
  | .rscShiftReg c f rn rd rs sh rm => .arm (dpShiftRegWord DpOp.rsc.toBits c f rn rd rs sh rm)
  | .tstImm c rn rd rot imm => .arm (dpImmWord DpOp.tst.toBits c true rn rd rot imm)
  | .tstShiftImm c rn rd amt sh rm => .arm (dpShiftImmWord DpOp.tst.toBits c true rn rd amt sh rm)
  | .tstShiftReg c rn rd rs sh rm => .arm (dpShiftRegWord DpOp.tst.toBits c true rn rd rs sh rm)
  | .teqImm c rn rd rot imm => .arm (dpImmWord DpOp.teq.toBits c true rn rd rot imm)
  | .teqShiftImm c rn rd amt sh rm => .arm (dpShiftImmWord DpOp.teq.toBits c true rn rd amt sh rm)
  | .teqShiftReg c rn rd rs sh rm => .arm (dpShiftRegWord DpOp.teq.toBits c true rn rd rs sh rm)
  | .cmpImm c rn rd rot imm => .arm (dpImmWord DpOp.cmp.toBits c true rn rd rot imm)
  | .cmpShiftImm c rn rd amt sh rm => .arm (dpShiftImmWord DpOp.cmp.toBits c true rn rd amt sh rm)
  | .cmpShiftReg c rn rd rs sh rm => .arm (dpShiftRegWord DpOp.cmp.toBits c true rn rd rs sh rm)
  | .cmnImm c rn rd rot imm => .arm (dpImmWord DpOp.cmn.toBits c true rn rd rot imm)
  | .cmnShiftImm c rn rd amt sh rm => .arm (dpShiftImmWord DpOp.cmn.toBits c true rn rd amt sh rm)
  | .cmnShiftReg c rn rd rs sh rm => .arm (dpShiftRegWord DpOp.cmn.toBits c true rn rd rs sh rm)
  | .orrImm c f rn rd rot imm => .arm (dpImmWord DpOp.orr.toBits c f rn rd rot imm)
  | .orrShiftImm c f rn rd amt sh rm => .arm (dpShiftImmWord DpOp.orr.toBits c f rn rd amt sh rm)
  | .orrShiftReg c f rn rd rs sh rm => .arm (dpShiftRegWord DpOp.orr.toBits c f rn rd rs sh rm)
  | .movImm c f rn rd rot imm => .arm (dpImmWord DpOp.mov.toBits c f rn rd rot imm)
  | .movShiftImm c f rn rd amt sh rm => .arm (dpShiftImmWord DpOp.mov.toBits c f rn rd amt sh rm)
  | .movShiftReg c f rn rd rs sh rm => .arm (dpShiftRegWord DpOp.mov.toBits c f rn rd rs sh rm)
  | .bicImm c f rn rd rot imm => .arm (dpImmWord DpOp.bic.toBits c f rn rd rot imm)
  | .bicShiftImm c f rn rd amt sh rm => .arm (dpShiftImmWord DpOp.bic.toBits c f rn rd amt sh rm)
  | .bicShiftReg c f rn rd rs sh rm => .arm (dpShiftRegWord DpOp.bic.toBits c f rn rd rs sh rm)
  | .mvnImm c f rn rd rot imm => .arm (dpImmWord DpOp.mvn.toBits c f rn rd rot imm)
  | .mvnShiftImm c f rn rd amt sh rm => .arm (dpShiftImmWord DpOp.mvn.toBits c f rn rd amt sh rm)
  | .mvnShiftReg c f rn rd rs sh rm => .arm (dpShiftRegWord DpOp.mvn.toBits c f rn rd rs sh rm)
  | .mrs c spsr rd => .arm (mrsWord c spsr rd)
  | .msrReg c spsr mask rm => .arm (msrRegWord c spsr mask rm)
  | .msrImm c spsr mask rot imm => .arm (msrImmWord c spsr mask rot imm)
  | .bx c rm => .arm (bxWord c rm)
  | .mul c f rd rn rs rm => .arm (multiplyWord 0#4 c f rd rn rs rm)
  | .mla c f rd rn rs rm => .arm (multiplyWord 1#4 c f rd rn rs rm)
  | .umull c f rdHi rdLo rs rm => .arm (multiplyWord 4#4 c f rdHi rdLo rs rm)
  | .umlal c f rdHi rdLo rs rm => .arm (multiplyWord 5#4 c f rdHi rdLo rs rm)
  | .smull c f rdHi rdLo rs rm => .arm (multiplyWord 6#4 c f rdHi rdLo rs rm)
  | .smlal c f rdHi rdLo rs rm => .arm (multiplyWord 7#4 c f rdHi rdLo rs rm)
  | .swp c rn rd rm => .arm (multiplyWord 8#4 c false rn rd 0#4 rm)
  | .swpb c rn rd rm => .arm (multiplyWord 10#4 c false rn rd 0#4 rm)
  | .strhPre c u im w rn rd hi lo => .arm (halfWord 1#2 c true u im w false rn rd hi lo)
  | .strhPost c u im rn rd hi lo => .arm (halfWord 1#2 c false u im false false rn rd hi lo)
  | .ldrhPre c u im w rn rd hi lo => .arm (halfWord 1#2 c true u im w true rn rd hi lo)
  | .ldrhPost c u im rn rd hi lo => .arm (halfWord 1#2 c false u im false true rn rd hi lo)
  | .ldrsbPre c u im w rn rd hi lo => .arm (halfWord 2#2 c true u im w true rn rd hi lo)
  | .ldrsbPost c u im rn rd hi lo => .arm (halfWord 2#2 c false u im false true rn rd hi lo)
  | .ldrshPre c u im w rn rd hi lo => .arm (halfWord 3#2 c true u im w true rn rd hi lo)
  | .ldrshPost c u im rn rd hi lo => .arm (halfWord 3#2 c false u im false true rn rd hi lo)
  | .strImmPre c u w rn rd off => .arm (sdtImmWord c true u false w false rn rd off)
  | .strImmPost c u rn rd off => .arm (sdtImmWord c false u false false false rn rd off)
  | .strtImm c u rn rd off => .arm (sdtImmWord c false u false true false rn rd off)
  | .strRegPre c u w rn rd amt sh rm => .arm (sdtRegWord c true u false w false rn rd amt sh rm)
  | .strRegPost c u rn rd amt sh rm => .arm (sdtRegWord c false u false false false rn rd amt sh rm)
  | .strtReg c u rn rd amt sh rm => .arm (sdtRegWord c false u false true false rn rd amt sh rm)
  | .ldrImmPre c u w rn rd off => .arm (sdtImmWord c true u false w true rn rd off)
  | .ldrImmPost c u rn rd off => .arm (sdtImmWord c false u false false true rn rd off)
  | .ldrtImm c u rn rd off => .arm (sdtImmWord c false u false true true rn rd off)
  | .ldrRegPre c u w rn rd amt sh rm => .arm (sdtRegWord c true u false w true rn rd amt sh rm)
  | .ldrRegPost c u rn rd amt sh rm => .arm (sdtRegWord c false u false false true rn rd amt sh rm)
  | .ldrtReg c u rn rd amt sh rm => .arm (sdtRegWord c false u false true true rn rd amt sh rm)
  | .strbImmPre c u w rn rd off => .arm (sdtImmWord c true u true w false rn rd off)
  | .strbImmPost c u rn rd off => .arm (sdtImmWord c false u true false false rn rd off)
  | .strbtImm c u rn rd off => .arm (sdtImmWord c false u true true false rn rd off)
  | .strbRegPre c u w rn rd amt sh rm => .arm (sdtRegWord c true u true w false rn rd amt sh rm)
  | .strbRegPost c u rn rd amt sh rm => .arm (sdtRegWord c false u true false false rn rd amt sh rm)
  | .strbtReg c u rn rd amt sh rm => .arm (sdtRegWord c false u true true false rn rd amt sh rm)
  | .ldrbImmPre c u w rn rd off => .arm (sdtImmWord c true u true w true rn rd off)
  | .ldrbImmPost c u rn rd off => .arm (sdtImmWord c false u true false true rn rd off)
  | .ldrbtImm c u rn rd off => .arm (sdtImmWord c false u true true true rn rd off)
  | .ldrbRegPre c u w rn rd amt sh rm => .arm (sdtRegWord c true u true w true rn rd amt sh rm)
  | .ldrbRegPost c u rn rd amt sh rm => .arm (sdtRegWord c false u true false true rn rd amt sh rm)
  | .ldrbtReg c u rn rd amt sh rm => .arm (sdtRegWord c false u true true true rn rd amt sh rm)
  | .und c hi lo => .arm (undWord c hi lo)
  | .ldmia c ub w rn list => .arm (blockWord c false true ub w true rn list)
  | .stmia c ub w rn list => .arm (blockWord c false true ub w false rn list)
  | .ldmib c ub w rn list => .arm (blockWord c true true ub w true rn list)
  | .stmib c ub w rn list => .arm (blockWord c true true ub w false rn list)
  | .ldmda c ub w rn list => .arm (blockWord c false false ub w true rn list)
  | .stmda c ub w rn list => .arm (blockWord c false false ub w false rn list)
  | .ldmdb c ub w rn list => .arm (blockWord c true false ub w true rn list)
  | .stmdb c ub w rn list => .arm (blockWord c true false ub w false rn list)
  | .b c off => .arm (branchWord c false off)
  | .bl c off => .arm (branchWord c true off)
  | .stc c ix rn crd cp off => .arm (coprocTransferWord c false ix rn crd cp off)
  | .ldc c ix rn crd cp off => .arm (coprocTransferWord c true ix rn crd cp off)
  | .cdp c op1 crn crd cp op2 crm => .arm (coprocOpWord c op1 crn crd cp op2 crm)
  | .mcr c op1 crn rd cp op2 crm => .arm (coprocRegWord c false op1 crn rd cp op2 crm)
  | .mrc c op1 crn rd cp op2 crm => .arm (coprocRegWord c true op1 crn rd cp op2 crm)
  | .swi c comment => .arm (swiWord c comment)
  | .tLslImm off rs rd => .thumb (thumbWide 0#5 off rs rd)
  | .tLsrImm off rs rd => .thumb (thumbWide 1#5 off rs rd)
  | .tAsrImm off rs rd => .thumb (thumbWide 2#5 off rs rd)
  | .tAddReg rn rs rd => .thumb (thumbThree 3#5 false false rn rs rd)
  | .tSubReg rn rs rd => .thumb (thumbThree 3#5 false true rn rs rd)
  | .tAddImm3 imm rs rd => .thumb (thumbThree 3#5 true false imm rs rd)
  | .tSubImm3 imm rs rd => .thumb (thumbThree 3#5 true true imm rs rd)
  | .tMovImm8 rd imm => .thumb (thumbByte 4#5 rd imm)
  | .tCmpImm8 rd imm => .thumb (thumbByte 5#5 rd imm)
  | .tAddImm8 rd imm => .thumb (thumbByte 6#5 rd imm)
  | .tSubImm8 rd imm => .thumb (thumbByte 7#5 rd imm)
  | .tAnd rs rd => .thumb (thumbAluWord 0#4 rs rd)
  | .tEor rs rd => .thumb (thumbAluWord 1#4 rs rd)
  | .tLslReg rs rd => .thumb (thumbAluWord 2#4 rs rd)
  | .tLsrReg rs rd => .thumb (thumbAluWord 3#4 rs rd)
  | .tAsrReg rs rd => .thumb (thumbAluWord 4#4 rs rd)
  | .tAdc rs rd => .thumb (thumbAluWord 5#4 rs rd)
  | .tSbc rs rd => .thumb (thumbAluWord 6#4 rs rd)
  | .tRorReg rs rd => .thumb (thumbAluWord 7#4 rs rd)
  | .tTst rs rd => .thumb (thumbAluWord 8#4 rs rd)
  | .tNeg rs rd => .thumb (thumbAluWord 9#4 rs rd)
  | .tCmpReg rs rd => .thumb (thumbAluWord 10#4 rs rd)
  | .tCmn rs rd => .thumb (thumbAluWord 11#4 rs rd)
  | .tOrr rs rd => .thumb (thumbAluWord 12#4 rs rd)
  | .tMul rs rd => .thumb (thumbAluWord 13#4 rs rd)
  | .tBic rs rd => .thumb (thumbAluWord 14#4 rs rd)
  | .tMvn rs rd => .thumb (thumbAluWord 15#4 rs rd)
  | .tAddHi m d => .thumb (thumbHiWord 0#2 (bitAt d 3) m (field d 0 3))
  | .tCmpHi m d => .thumb (thumbHiWord 1#2 (bitAt d 3) m (field d 0 3))
  | .tMovHi m d => .thumb (thumbHiWord 2#2 (bitAt d 3) m (field d 0 3))
  | .tBx m sbz => .thumb (thumbHiWord 3#2 false m sbz)
  | .tLdrPc rd imm => .thumb (thumbByte 9#5 rd imm)
  | .tStrReg ro rb rd => .thumb (thumbThree 10#5 false false ro rb rd)
  | .tStrbReg ro rb rd => .thumb (thumbThree 10#5 true false ro rb rd)
  | .tLdrReg ro rb rd => .thumb (thumbThree 11#5 false false ro rb rd)
  | .tLdrbReg ro rb rd => .thumb (thumbThree 11#5 true false ro rb rd)
  | .tStrhReg ro rb rd => .thumb (thumbThree 10#5 false true ro rb rd)
  | .tLdsbReg ro rb rd => .thumb (thumbThree 10#5 true true ro rb rd)
  | .tLdrhReg ro rb rd => .thumb (thumbThree 11#5 false true ro rb rd)
  | .tLdshReg ro rb rd => .thumb (thumbThree 11#5 true true ro rb rd)
  | .tStrOff off rb rd => .thumb (thumbWide 12#5 off rb rd)
  | .tLdrOff off rb rd => .thumb (thumbWide 13#5 off rb rd)
  | .tStrbOff off rb rd => .thumb (thumbWide 14#5 off rb rd)
  | .tLdrbOff off rb rd => .thumb (thumbWide 15#5 off rb rd)
  | .tStrhOff off rb rd => .thumb (thumbWide 16#5 off rb rd)
  | .tLdrhOff off rb rd => .thumb (thumbWide 17#5 off rb rd)
  | .tStrSp rd imm => .thumb (thumbByte 18#5 rd imm)
  | .tLdrSp rd imm => .thumb (thumbByte 19#5 rd imm)
  | .tAddPc rd imm => .thumb (thumbByte 20#5 rd imm)
  | .tAddSp rd imm => .thumb (thumbByte 21#5 rd imm)
  | .tAdjustSp sub imm => .thumb (put 16 11 22#5 ||| putBit 16 7 sub ||| put 16 0 imm)
  | .tPush r list => .thumb (thumbStackWord 22#5 r list)
  | .tPop r list => .thumb (thumbStackWord 23#5 r list)
  | .tStmia rb list => .thumb (thumbByte 24#5 rb list)
  | .tLdmia rb list => .thumb (thumbByte 25#5 rb list)
  | .tBeq off => .thumb (thumbByte 26#5 0#3 off)
  | .tBne off => .thumb (thumbByte 26#5 1#3 off)
  | .tBcs off => .thumb (thumbByte 26#5 2#3 off)
  | .tBcc off => .thumb (thumbByte 26#5 3#3 off)
  | .tBmi off => .thumb (thumbByte 26#5 4#3 off)
  | .tBpl off => .thumb (thumbByte 26#5 5#3 off)
  | .tBvs off => .thumb (thumbByte 26#5 6#3 off)
  | .tBvc off => .thumb (thumbByte 26#5 7#3 off)
  | .tBhi off => .thumb (thumbByte 27#5 0#3 off)
  | .tBls off => .thumb (thumbByte 27#5 1#3 off)
  | .tBge off => .thumb (thumbByte 27#5 2#3 off)
  | .tBlt off => .thumb (thumbByte 27#5 3#3 off)
  | .tBgt off => .thumb (thumbByte 27#5 4#3 off)
  | .tBle off => .thumb (thumbByte 27#5 5#3 off)
  | .tUnd low => .thumb (thumbByte 27#5 6#3 low)
  | .tSwi value => .thumb (thumbByte 27#5 7#3 value)
  | .tB off => .thumb (thumbLong 28#5 off)
  | .tBlPrefix off => .thumb (thumbLong 30#5 off)
  | .tBlSuffix off => .thumb (thumbLong 31#5 off)

/-- The bytes of an instruction, lowest address first. -/
def Instr.bytes (i : Instr) : List Byte := (encode i).bytes

/-! ### The rows of the opcode table -/

/-- A row's mask and match (R380): a word `w` matches when `w AND mask = match`. -/
structure Row (n : Nat) where
  mask : BitVec n
  pattern : BitVec n
  deriving DecidableEq, Repr

/-- The word matches the row (R380). -/
def Row.holds {n : Nat} (r : Row n) (w : BitVec n) : Bool := w &&& r.mask = r.pattern

/-- ARM rows 0 to 19 of the opcode table, in its order. -/
def armRows0 : List (Row 32) :=
  [⟨0x0FE00000, 0x02000000⟩, ⟨0x0FE00010, 0x00000000⟩, ⟨0x0FE00090, 0x00000010⟩, ⟨0x0FE00000, 0x02200000⟩,
   ⟨0x0FE00010, 0x00200000⟩, ⟨0x0FE00090, 0x00200010⟩, ⟨0x0FE00000, 0x02400000⟩, ⟨0x0FE00010, 0x00400000⟩,
   ⟨0x0FE00090, 0x00400010⟩, ⟨0x0FE00000, 0x02600000⟩, ⟨0x0FE00010, 0x00600000⟩, ⟨0x0FE00090, 0x00600010⟩,
   ⟨0x0FE00000, 0x02800000⟩, ⟨0x0FE00010, 0x00800000⟩, ⟨0x0FE00090, 0x00800010⟩, ⟨0x0FE00000, 0x02A00000⟩,
   ⟨0x0FE00010, 0x00A00000⟩, ⟨0x0FE00090, 0x00A00010⟩, ⟨0x0FE00000, 0x02C00000⟩, ⟨0x0FE00010, 0x00C00000⟩]

/-- ARM rows 20 to 39 of the opcode table, in its order. -/
def armRows1 : List (Row 32) :=
  [⟨0x0FE00090, 0x00C00010⟩, ⟨0x0FE00000, 0x02E00000⟩, ⟨0x0FE00010, 0x00E00000⟩, ⟨0x0FE00090, 0x00E00010⟩,
   ⟨0x0FF00000, 0x03100000⟩, ⟨0x0FF00010, 0x01100000⟩, ⟨0x0FF00090, 0x01100010⟩, ⟨0x0FF00000, 0x03300000⟩,
   ⟨0x0FF00010, 0x01300000⟩, ⟨0x0FF00090, 0x01300010⟩, ⟨0x0FF00000, 0x03500000⟩, ⟨0x0FF00010, 0x01500000⟩,
   ⟨0x0FF00090, 0x01500010⟩, ⟨0x0FF00000, 0x03700000⟩, ⟨0x0FF00010, 0x01700000⟩, ⟨0x0FF00090, 0x01700010⟩,
   ⟨0x0FE00000, 0x03800000⟩, ⟨0x0FE00010, 0x01800000⟩, ⟨0x0FE00090, 0x01800010⟩, ⟨0x0FE00000, 0x03A00000⟩]

/-- ARM rows 40 to 59 of the opcode table, in its order. -/
def armRows2 : List (Row 32) :=
  [⟨0x0FE00010, 0x01A00000⟩, ⟨0x0FE00090, 0x01A00010⟩, ⟨0x0FE00000, 0x03C00000⟩, ⟨0x0FE00010, 0x01C00000⟩,
   ⟨0x0FE00090, 0x01C00010⟩, ⟨0x0FE00000, 0x03E00000⟩, ⟨0x0FE00010, 0x01E00000⟩, ⟨0x0FE00090, 0x01E00010⟩,
   ⟨0x0FBF0FFF, 0x010F0000⟩, ⟨0x0FB0FFF0, 0x0120F000⟩, ⟨0x0FB0F000, 0x0320F000⟩, ⟨0x0FFFFFF0, 0x012FFF10⟩,
   ⟨0x0FE000F0, 0x00000090⟩, ⟨0x0FE000F0, 0x00200090⟩, ⟨0x0FE000F0, 0x00800090⟩, ⟨0x0FE000F0, 0x00A00090⟩,
   ⟨0x0FE000F0, 0x00C00090⟩, ⟨0x0FE000F0, 0x00E00090⟩, ⟨0x0FF00FF0, 0x01000090⟩, ⟨0x0FF00FF0, 0x01400090⟩]

/-- ARM rows 60 to 79 of the opcode table, in its order. -/
def armRows3 : List (Row 32) :=
  [⟨0x0F1000F0, 0x010000B0⟩, ⟨0x0F3000F0, 0x000000B0⟩, ⟨0x0F1000F0, 0x011000B0⟩, ⟨0x0F3000F0, 0x001000B0⟩,
   ⟨0x0F1000F0, 0x011000D0⟩, ⟨0x0F3000F0, 0x001000D0⟩, ⟨0x0F1000F0, 0x011000F0⟩, ⟨0x0F3000F0, 0x001000F0⟩,
   ⟨0x0F500000, 0x05000000⟩, ⟨0x0F700000, 0x04000000⟩, ⟨0x0F700000, 0x04200000⟩, ⟨0x0F500010, 0x07000000⟩,
   ⟨0x0F700010, 0x06000000⟩, ⟨0x0F700010, 0x06200000⟩, ⟨0x0F500000, 0x05100000⟩, ⟨0x0F700000, 0x04100000⟩,
   ⟨0x0F700000, 0x04300000⟩, ⟨0x0F500010, 0x07100000⟩, ⟨0x0F700010, 0x06100000⟩, ⟨0x0F700010, 0x06300000⟩]

/-- ARM rows 80 to 99 of the opcode table, in its order. -/
def armRows4 : List (Row 32) :=
  [⟨0x0F500000, 0x05400000⟩, ⟨0x0F700000, 0x04400000⟩, ⟨0x0F700000, 0x04600000⟩, ⟨0x0F500010, 0x07400000⟩,
   ⟨0x0F700010, 0x06400000⟩, ⟨0x0F700010, 0x06600000⟩, ⟨0x0F500000, 0x05500000⟩, ⟨0x0F700000, 0x04500000⟩,
   ⟨0x0F700000, 0x04700000⟩, ⟨0x0F500010, 0x07500000⟩, ⟨0x0F700010, 0x06500000⟩, ⟨0x0F700010, 0x06700000⟩,
   ⟨0x0E000010, 0x06000010⟩, ⟨0x0F900000, 0x08900000⟩, ⟨0x0F900000, 0x08800000⟩, ⟨0x0F900000, 0x09900000⟩,
   ⟨0x0F900000, 0x09800000⟩, ⟨0x0F900000, 0x08100000⟩, ⟨0x0F900000, 0x08000000⟩, ⟨0x0F900000, 0x09100000⟩]

/-- ARM rows 100 to 108 of the opcode table, in its order. -/
def armRows5 : List (Row 32) :=
  [⟨0x0F900000, 0x09000000⟩, ⟨0x0F000000, 0x0A000000⟩, ⟨0x0F000000, 0x0B000000⟩, ⟨0x0E100000, 0x0C000000⟩,
   ⟨0x0E100000, 0x0C100000⟩, ⟨0x0F000010, 0x0E000000⟩, ⟨0x0F100010, 0x0E000010⟩, ⟨0x0F100010, 0x0E100010⟩,
   ⟨0x0F000000, 0x0F000000⟩]

/-- The ARM rows of the opcode table (R380). -/
def armRows : List (Row 32) :=
  armRows0 ++ armRows1 ++ armRows2 ++ armRows3 ++ armRows4 ++ armRows5

/-- Thumb rows 0 to 19 of the opcode table, in its order. -/
def thumbRows0 : List (Row 16) :=
  [⟨0xF800, 0x0000⟩, ⟨0xF800, 0x0800⟩, ⟨0xF800, 0x1000⟩, ⟨0xFE00, 0x1800⟩,
   ⟨0xFE00, 0x1A00⟩, ⟨0xFE00, 0x1C00⟩, ⟨0xFE00, 0x1E00⟩, ⟨0xF800, 0x2000⟩,
   ⟨0xF800, 0x2800⟩, ⟨0xF800, 0x3000⟩, ⟨0xF800, 0x3800⟩, ⟨0xFFC0, 0x4000⟩,
   ⟨0xFFC0, 0x4040⟩, ⟨0xFFC0, 0x4080⟩, ⟨0xFFC0, 0x40C0⟩, ⟨0xFFC0, 0x4100⟩,
   ⟨0xFFC0, 0x4140⟩, ⟨0xFFC0, 0x4180⟩, ⟨0xFFC0, 0x41C0⟩, ⟨0xFFC0, 0x4200⟩]

/-- Thumb rows 20 to 39 of the opcode table, in its order. -/
def thumbRows1 : List (Row 16) :=
  [⟨0xFFC0, 0x4240⟩, ⟨0xFFC0, 0x4280⟩, ⟨0xFFC0, 0x42C0⟩, ⟨0xFFC0, 0x4300⟩,
   ⟨0xFFC0, 0x4340⟩, ⟨0xFFC0, 0x4380⟩, ⟨0xFFC0, 0x43C0⟩, ⟨0xFF00, 0x4400⟩,
   ⟨0xFF00, 0x4500⟩, ⟨0xFF00, 0x4600⟩, ⟨0xFF80, 0x4700⟩, ⟨0xF800, 0x4800⟩,
   ⟨0xFE00, 0x5000⟩, ⟨0xFE00, 0x5400⟩, ⟨0xFE00, 0x5800⟩, ⟨0xFE00, 0x5C00⟩,
   ⟨0xFE00, 0x5200⟩, ⟨0xFE00, 0x5600⟩, ⟨0xFE00, 0x5A00⟩, ⟨0xFE00, 0x5E00⟩]

/-- Thumb rows 40 to 59 of the opcode table, in its order. -/
def thumbRows2 : List (Row 16) :=
  [⟨0xF800, 0x6000⟩, ⟨0xF800, 0x6800⟩, ⟨0xF800, 0x7000⟩, ⟨0xF800, 0x7800⟩,
   ⟨0xF800, 0x8000⟩, ⟨0xF800, 0x8800⟩, ⟨0xF800, 0x9000⟩, ⟨0xF800, 0x9800⟩,
   ⟨0xF800, 0xA000⟩, ⟨0xF800, 0xA800⟩, ⟨0xFF00, 0xB000⟩, ⟨0xFE00, 0xB400⟩,
   ⟨0xFE00, 0xBC00⟩, ⟨0xF800, 0xC000⟩, ⟨0xF800, 0xC800⟩, ⟨0xFF00, 0xD000⟩,
   ⟨0xFF00, 0xD100⟩, ⟨0xFF00, 0xD200⟩, ⟨0xFF00, 0xD300⟩, ⟨0xFF00, 0xD400⟩]

/-- Thumb rows 60 to 73 of the opcode table, in its order. -/
def thumbRows3 : List (Row 16) :=
  [⟨0xFF00, 0xD500⟩, ⟨0xFF00, 0xD600⟩, ⟨0xFF00, 0xD700⟩, ⟨0xFF00, 0xD800⟩,
   ⟨0xFF00, 0xD900⟩, ⟨0xFF00, 0xDA00⟩, ⟨0xFF00, 0xDB00⟩, ⟨0xFF00, 0xDC00⟩,
   ⟨0xFF00, 0xDD00⟩, ⟨0xFF00, 0xDE00⟩, ⟨0xFF00, 0xDF00⟩, ⟨0xF800, 0xE000⟩,
   ⟨0xF800, 0xF000⟩, ⟨0xF800, 0xF800⟩]

/-- The Thumb rows of the opcode table (R380). -/
def thumbRows : List (Row 16) :=
  thumbRows0 ++ thumbRows1 ++ thumbRows2 ++ thumbRows3

end Sys2Proof
end

