-- ==== Sys2Proof/Config.lean ====
section
/-! DEFINITION. What an implementation fixes (the named parameters of 00_scope R12, as plain data, so that a
statement over all states holds for every value of every parameter) and the free values the spec leaves to the
environment (93 section 3), each an opaque constant with no value a proof could use. -/

namespace Sys2Proof

/-- `undefPolicy` (R12, D3): what an undefined, coprocessor or unallocated encoding does (R907). -/
inductive UndefPolicy where
  | fault
  | trap
  deriving DecidableEq, Repr, Inhabited

/-- `swiMode` (R12, D5): the architectural trap, or the call of an external service (R908, R915). -/
inductive SwiMode where
  | trap
  | external
  deriving DecidableEq, Repr, Inhabited

/-- `bootProfile` (R12, D10): the state a reset leaves the CPU unit in (R150, R151). -/
inductive BootProfile where
  | hwReset
  | directBoot
  deriving DecidableEq, Repr, Inhabited

/-- `saveKind` (R4, R12): the chip on the cartridge. -/
inductive SaveKind where
  | sram
  | flash64
  | flash128
  | eeprom
  deriving DecidableEq, Repr, Inhabited

/-- `proxyByteStore` (R12, R851, D42): what a byte store to a render-proxy region writes. -/
inductive ProxyByteStore where
  | single
  | mirrorHalfword
  deriving DecidableEq, Repr, Inhabited

/-- The regions an address is routed to (R201). -/
inductive Region where
  | ram
  | rom
  | io
  | palette
  | vram
  | oam
  | save
  deriving DecidableEq, Repr, Inhabited

/-- The cartridge a route entry stands for (R230: three rows depend on `saveKind`). -/
inductive RouteGuard where
  | always
  | sram
  | flash
  | eeprom
  deriving DecidableEq, Repr, Inhabited

/-- How the offset a unit receives is computed from the address (the last column of R230's table). -/
inductive OffsetRule where
  /-- `base + (a AND mask)`: a masked offset, or the one place the mirrors of a `ram` or `rom` region share. -/
  | masked (base mask : Nat)
  /-- `a AND (paletteSize - 1)`. -/
  | palette
  /-- `o = a AND 0x1FFFF`; if `o >= 0x18000` then `o - 0x8000`. -/
  | vram
  /-- `a AND (oamSize - 1)`. -/
  | oam
  /-- `a AND (sramSize - 1)`. -/
  | sram
  deriving DecidableEq, Repr, Inhabited

/-- One row of the address map: addresses `lo` to `hi` inclusive. -/
structure RouteEntry where
  lo : Nat
  hi : Nat
  guard : RouteGuard
  region : Region
  offset : OffsetRule
  deriving DecidableEq, Repr, Inhabited

/-- The named parameters of R12 (a model takes them as arguments: here the state holds them, and no step changes them). -/
structure Params where
  arm7tdmiAlt : Bool
  undefPolicy : UndefPolicy
  swiMode : SwiMode
  bootProfile : BootProfile
  route : List RouteEntry
  saveKind : SaveKind
  sramSize : Nat
  eepromSize : Nat
  /-- The bytes of the chip the host supplies, from index 0 on (R152); the others are free (`Config.savedByte`). -/
  initialImage : List Byte
  paletteSize : Nat
  vramSize : Nat
  oamSize : Nat
  vramBlockShift : Nat
  proxyByteStore : ProxyByteStore
  skipResume : Int
  videoRegs : List Nat
  fiqLine : Bool
  deriving DecidableEq, Repr

/-- The default `route`: the platform map of R230, rows searched in this order, so that the EEPROM's window is found
before the cartridge ROM's (C10). Mirrors of one memory share the keys of its first copy (the sizes of R230; the
three cartridge mirrors are 32 MiB each). -/
def Config.defaultRoute : List RouteEntry :=
  [ ⟨0x00000000, 0x00003FFF, .always, .rom, .masked 0x00000000 0x3FFF⟩,
    ⟨0x02000000, 0x02FFFFFF, .always, .ram, .masked 0x02000000 0x3FFFF⟩,
    ⟨0x03000000, 0x03FFFFFF, .always, .ram, .masked 0x03000000 0x7FFF⟩,
    ⟨0x04000000, 0x040003FF, .always, .io, .masked 0 0x3FF⟩,
    ⟨0x05000000, 0x05FFFFFF, .always, .palette, .palette⟩,
    ⟨0x06000000, 0x06FFFFFF, .always, .vram, .vram⟩,
    ⟨0x07000000, 0x07FFFFFF, .always, .oam, .oam⟩,
    ⟨0x0D000000, 0x0DFFFFFF, .eeprom, .save, .masked 0 0xFFFFFF⟩,
    ⟨0x08000000, 0x0DFFFFFF, .always, .rom, .masked 0x08000000 0x1FFFFFF⟩,
    ⟨0x0E000000, 0x0FFFFFFF, .sram, .save, .sram⟩,
    ⟨0x0E000000, 0x0FFFFFFF, .flash, .save, .masked 0 0xFFFF⟩ ]

/-- The parameters with the default R12 gives each one that has a default (D2, D3, D5, D7, D10, D27, D38, D41, D45), as a
function of the five it gives none for. -/
def Config.defaultParams (saveKind : SaveKind) (eepromSize : Nat) (initialImage : List Byte) (proxyByteStore : ProxyByteStore)
    (videoRegs : List Nat) : Params where
  arm7tdmiAlt := false
  undefPolicy := .fault
  swiMode := .trap
  bootProfile := .hwReset
  route := Config.defaultRoute
  saveKind := saveKind
  sramSize := 0x8000
  eepromSize := eepromSize
  initialImage := initialImage
  paletteSize := 0x400
  vramSize := 0x18000
  oamSize := 0x400
  vramBlockShift := 13
  proxyByteStore := proxyByteStore
  skipResume := 0
  videoRegs := videoRegs
  fiqLine := false

/-- The parameters of `State.reset`: R12's defaults. DESIGN CHOICE (log 6, log 8): an SRAM chip, `eepromSize` 512, no byte of
`initialImage` supplied, `proxyByteStore` single, for which R12 gives no default. PRESUMED (log 9): `videoRegs`, the family's
display registers. -/
def Config.resetParams : Params := Config.defaultParams .sram 512 [] .single ((List.range 43).map (2 * ·))

/-- The parameters of `Config.resetParams` with the other admitted value of the two policies (R12, D2, D3): every
unpredictable case that has an ARM7TDMI alternative takes it, and an undefined encoding takes the Undefined exception. -/
def Config.chipParams : Params := { Config.resetParams with arm7tdmiAlt := true, undefPolicy := .trap }

/-- One access an external SWI service performs through the memory interface (R915). -/
inductive SwiAccess where
  | load (w : Width) (addr : Word)
  | store (w : Width) (addr : Word) (value : Word)
  deriving DecidableEq, Repr, Inhabited

/-- What the external SWI service does in one call (R915): any finite sequence of accesses, then any of R0 to R3. -/
structure SwiScript where
  accesses : List SwiAccess
  r0 : Option Word
  r1 : Option Word
  r2 : Option Word
  r3 : Option Word
  deriving DecidableEq, Repr, Inhabited

/-- A call of the external SWI interface: `swi(value8)` from Thumb, `swi32(comment24)` from ARM (R326, R915). -/
inductive SwiCall where
  | swi (value8 : BitVec 8)
  | swi32 (comment : BitVec 24)
  deriving DecidableEq, Repr, Inhabited

/-- The `n`-th `draw` (R14): a free value chosen by the environment under no law. Opaque: nothing is provable of it
(log 5). -/
opaque Config.freeValue : Nat → Word

/-- A byte of the save image the host did not supply (R152, R800, D38): one free byte for each byte index (log 6). -/
opaque Config.savedByte : Nat → Byte

/-- The oracle of R915: what the service does on its `n`-th draw for this call. Every result is admitted (log 17). -/
opaque Config.swiService : Nat → SwiCall → SwiScript

end Sys2Proof
end

