-- ==== Sys2Proof/Machine/State.lean ====
section
/-! DEFINITION. The state of the block: the CPU unit, the savedata unit, the render proxy, their inputs and outputs, as plain
data (10_state.md), the reasons a step can stop (60_exceptions R901), and the state after reset (R150 to R153). -/

namespace Sys2Proof.Machine

/-! ### The CPU unit -/

/-- The seven processor modes (R101). -/
inductive Mode where
  | usr | fiq | irq | svc | abt | und | sys
  deriving DecidableEq, Repr, Inhabited

/-- The CPSR, held as its fields (R110, R119). Bits 27:8 have no storage. -/
structure Cpsr where
  n : Bool
  z : Bool
  c : Bool
  v : Bool
  i : Bool
  f : Bool
  t : Bool
  m : Mode
  deriving DecidableEq, Repr, Inhabited

/-- The five SPSRs, all 32 bits of each (R120). -/
structure Spsrs where
  fiq : Word
  irq : Word
  svc : Word
  abt : Word
  und : Word
  deriving DecidableEq, Repr, Inhabited

/-- The thirty physical general registers beside R15 (R102), in the order R0 to R12, R13_usr, R14_usr; R8_fiq to R14_fiq;
R13_irq, R14_irq; R13_svc, R14_svc; R13_abt, R14_abt; R13_und, R14_und. `physIndex` is the map of R103. -/
abbrev RegFile := Vector Word 30

/-- Sparse data by key: strictly rising keys (see `Assoc.sorted`). -/
abbrev Assoc (α : Type) := List (Nat × α)

/-- Bytes by address or offset. -/
abbrev Memory := List Host.Cell

/-- An instruction address whose word the pipeline fetched before a store of the same or the last instruction changed it
(R250, R971): the old word, absent where memory there was unwritten. -/
structure Stale where
  addr : Word
  old : Option Word
  deriving DecidableEq, Repr

/-- A recorded write to the I/O region (R202). -/
structure IoWrite where
  addr : Word
  width : Width
  value : Word
  deriving DecidableEq, Repr

/-! ### The savedata unit -/

/-- The chip's buffer (R130): the listed bytes, those of `initialImage` at power-on; an unlisted byte is 0xFF where its 4 KiB
sector is in `erased` (R823), else a byte the host did not supply (R152, log 7). -/
structure SaveBuffer where
  cells : Memory
  erased : List Nat
  deriving DecidableEq, Repr

/-- The Flash `command` (R132). -/
inductive FlashCommand where
  | none | erase | write | bank
  deriving DecidableEq, Repr, Inhabited

/-- The Flash sequencer (R132). `pendingCommand` true is the value 0x80, false 0. -/
structure Flash where
  bank : Fin 2
  idMode : Bool
  command : FlashCommand
  pendingCommand : Bool
  unlock : Fin 3
  deriving DecidableEq, Repr

/-- The EEPROM `command` (R133). -/
inductive EepromCommand where
  | null | pending | write | readPending | read
  deriving DecidableEq, Repr, Inhabited

/-- The EEPROM protocol state (R133). -/
structure Eeprom where
  command : EepromCommand
  addressBits : Nat
  commandBitsRemaining : Int
  readBitsRemaining : Int
  readAddress : Nat
  writeAddress : Nat
  deriving DecidableEq, Repr

/-- The savedata unit (R130): the buffer, the flush flag, and the sequencer of the chip `saveKind` names. -/
structure Save where
  buffer : SaveBuffer
  writePending : Bool
  flash : Flash
  eeprom : Eeprom
  deriving DecidableEq, Repr

/-! ### The render proxy -/

/-- The proxy's three regions (R140), as `ProxyAccess` names them. -/
inductive ProxyRegion where
  | palette | vram | oam
  deriving DecidableEq, Repr, Inhabited

/-- A scanline record (R142): copies, not references. A copied region or block is the list of its non-zero bytes. -/
structure ScanRecord where
  y : Nat
  regs : Assoc (BitVec 16)
  palette : Option Memory
  oam : Option Memory
  vram : Assoc Memory
  deriving DecidableEq, Repr

/-- A message to the render worker (R860, R863, R864, R870). -/
inductive WorkerMsg where
  | clear (sizeVram sizeOam : Nat)
  | start (backing : Option Nat)
  | finish (scanlines : List ScanRecord) (frame : Nat)
  deriving DecidableEq, Repr

/-- The render proxy (R140 to R143), the messages it has posted, oldest first, and `awaiting`, how many of the posted finish
messages the worker has not answered (R870). A byte of a region that is not listed is 0. -/
structure Proxy where
  palette : Memory
  vram : Memory
  oam : Memory
  dirtyRegs : Assoc (BitVec 16)
  dirtyPalette : Bool
  dirtyOam : Bool
  dirtyVram : List Nat
  queue : List ScanRecord
  delay : Int
  skipFrame : Bool
  currentFrame : Nat
  backing : Option Nat
  posted : List WorkerMsg
  awaiting : Nat
  deriving DecidableEq, Repr

/-! ### The host -/

/-- A byte array of a region (R861, R867): its size and its non-zero bytes. -/
structure Image where
  size : Nat
  cells : Memory
  deriving DecidableEq, Repr

/-- The snapshot `freeze` returns and `defrost` takes, the block's part (R126, R867, R966). -/
structure Snapshot where
  regs : RegFile
  pc : Word
  cpsr : Cpsr
  spsr : Spsrs
  cycles : Nat
  palette : Image
  vram : Image
  oam : Image
  deriving DecidableEq, Repr

/-- What the agents around the CPU unit do between its steps (R10, R240, R965, R966), each one atomic event. -/
inductive HostEvent where
  /-- The reset input (R950). -/
  | reset
  /-- The interrupt controller drives `irqLine` (R910). -/
  | irq (level : Bool)
  /-- DMA channel 3's transfer length and enable, as an EEPROM access samples them (R134). -/
  | dma3 (count : Nat) (enable : Bool)
  /-- A 16-bit load of the DMA unit (R10, R242). -/
  | dmaLoad16 (addr : Word)
  /-- A 16-bit store of the DMA unit (R10, R242). -/
  | dmaStore16 (addr : Word) (value : Half)
  /-- The I/O device forwards a write of a video register, with the register's value after it (R855). -/
  | videoRegWrite (reg : Nat) (ioValue : BitVec 16)
  | startDraw
  | drawScanline (y : Nat)
  | finishDraw
  /-- The proxy's `clear()` (R860). -/
  | clear
  /-- The proxy's `replace(palette, vram, oam)` (R861). -/
  | replace (palette vram oam : Image)
  /-- One pending `finish` reply of the worker is delivered (R866, R870). -/
  | workerReply (handle : Nat)
  /-- The end-of-frame flush (R965). -/
  | flush
  /-- `freeze()` (R966). -/
  | freeze
  /-- `defrost(s)` (R966). -/
  | defrost (s : Snapshot)
  deriving DecidableEq, Repr

/-- Whose turn it is: the CPU unit's, for one step, or one event of another agent. A list of turns is an interleaving of the
agents (R10, R240, R912, R961, R965, R975). -/
inductive Turn where
  | cpu
  | host (e : HostEvent)
  deriving DecidableEq, Repr

/-- What the block hands to the host: a DMA load's value, a snapshot, a completed frame (R866), a flushed buffer (R965). -/
inductive HostOutput where
  | dmaRead (value : Word)
  | frozen (s : Snapshot)
  | frame (handle : Nat)
  | flushed (buffer : SaveBuffer)
  deriving DecidableEq, Repr

/-! ### The reasons to stop -/

/-- The `unpredictable` cases by name (93 section 1). The ten marked "always" have no ARM7TDMI alternative and fault whatever
`arm7tdmiAlt` is. -/
inductive UnpredictableCase where
  | nvCondition
  | pcMisalignedArm
  /-- always (R565) -/
  | msrChangesT
  | noSpsr
  | misalignedHalfLoad
  | misalignedHalfStore
  | regShiftRsPc
  | regShiftRnPc
  | regShiftRdPc
  | mulRdEqRm
  /-- always (R503) -/
  | mulPc
  /-- always (R515) -/
  | mullRdHiEqRdLo
  | mullRdEqRm
  /-- always (R515) -/
  | mullPc
  /-- always (R560) -/
  | mrsPc
  /-- always (R565) -/
  | msrPc
  | loadWbRdEqRn
  | storeWbRdEqRn
  /-- always (R601) -/
  | wbPc
  | offsetRmPc
  | wbRmEqRn
  /-- always (R611) -/
  | loadBytePc
  | storePcNarrow
  /-- always (R625) -/
  | loadHalfPc
  /-- always (R632) -/
  | swpPc
  | swpBaseOverlap
  | ldmWbBaseInList
  | stmWbBaseNotLowest
  | emptyRegList
  | userBankWb
  | userBankInUserMode
  | bankedAccessAfterUserLdm
  | thumbCmpPc
  | thumbHiOpBothLow
  /-- always (R774) -/
  | thumbEmptyRegList
  deriving DecidableEq, Repr, Inhabited

/-- The fault reasons (R901, a closed list). -/
inductive FaultReason where
  /-- Raised by an instruction whose `unpredictable` case has no alternative, or with `arm7tdmiAlt` false (R14). Safe: the
  chip does something. -/
  | unpredictable (case : UnpredictableCase)
  /-- Raised by an undefined, coprocessor or unallocated encoding with `undefPolicy` fault (R907). Safe: the chip traps. -/
  | undefinedInstruction (word : Word)
  /-- Raised by a fetch, load or store at an address `route` maps to no region (R201). Safe: the platform returns
  open-bus data. -/
  | busFault (addr : Word)
  /-- Raised by a fetch or load of a RAM byte never written, or a ROM byte the launch did not give (R202, log 3). Safe: the
  chip returns some value. -/
  | unwrittenRead (addr : Word)
  /-- Raised by a 16- or 32-bit Flash access and an 8- or 32-bit EEPROM access (R810, R830). Exact: the source's hard error. -/
  | savedataWidth (kind : SaveKind) (width : Width)
  /-- Raised by an SRAM access beyond the chip's size (R800). Safe. -/
  | savedataRange (kind : SaveKind) (offset : Nat)
  /-- Raised by MSR and the CPSR restore when the new mode field is no mode (R118). Safe. -/
  | invalidMode (value : BitVec 5)
  /-- Raised by an EEPROM store that infers an address width other than 6 or 14 (R832). Safe. -/
  | eepromAddressWidth (value : Int)
  /-- Raised by the EEPROM store of the last address bit when the block lies beyond the part (R837). Safe. -/
  | eepromRange (block : Nat)
  /-- Raised by a misaligned or out-of-range render-proxy access, or a `replace` of the wrong size (R851, R861). Safe. -/
  | proxyAccess (region : ProxyRegion) (offset size : Nat)
  deriving DecidableEq, Repr

/-! ### The state -/

/-- The whole machine. -/
structure State where
  /-- The parameters of R12; no step changes them (log 1). -/
  params : Params
  /-- R0 to R14 of every bank (R102). -/
  regs : RegFile
  /-- The address of the next instruction to execute (R105: "A"). -/
  pc : Word
  /-- The current program status register (R110). -/
  cpsr : Cpsr
  /-- The saved program status registers (R120). -/
  spsr : Spsrs
  /-- The snapshot's cycle counter (R125); no rule reads it and no step changes it (log 12). -/
  cycles : Nat
  /-- The last instruction was a User-bank LDM (R972, log 14). -/
  afterUserLdm : Bool
  /-- Raced instruction words: what the pipeline may hold at A and A + W (R250, log 13). -/
  stale : List Stale
  /-- The IRQ input (R124, R910). -/
  irqLine : Bool
  /-- The DMA inputs an EEPROM access samples (R134). -/
  dma3Count : Nat
  dma3Enable : Bool
  /-- The bytes of the `ram` and `rom` regions (R202), by the address of their first copy (R230). -/
  mem : Memory
  /-- The recorded writes to the I/O region, oldest first (R202). -/
  ioLog : List IoWrite
  /-- The calls of the external SWI service, oldest first (R915). -/
  swiCalls : List SwiCall
  save : Save
  proxy : Proxy
  /-- How many free values have been used (log 5): the model's own. -/
  draws : Nat
  /-- The turns to come, in order; after the last one every turn is the CPU unit's (log 10): the model's own. -/
  schedule : List Turn
  /-- What the block has handed to the host, oldest first (log 10): the model's own. -/
  outputs : List HostOutput
  deriving DecidableEq, Repr

/-- A fault (R900): the block stops. -/
inductive Fault where
  /-- Raised by whatever raises the reason (`FaultReason` says what, and whether that is safe). `left` is the block as the
  faulting step leaves it: the accesses performed before the fault are in it (memory, the I/O log, the savedata unit, the
  render proxy), nothing else of the step is (R900, D8; log 11). -/
  | stop (reason : FaultReason) (left : State)
  deriving DecidableEq, Repr

/-- The refusals: only instructions without a meaning. -/
inductive Refusal where
  /-- Raised by an arm of `exec` whose instruction has no meaning yet. Safe: nothing is said of it. -/
  | notModelled (mnemonic : String)
  deriving DecidableEq, Repr

/-- The Flash sequencer at power-on and after a reset (R152, R951). -/
def Flash.idle : Flash := ⟨0, false, .none, false, 0⟩

/-- The EEPROM protocol state at power-on and after a reset (R152, R951). -/
def Eeprom.idle : Eeprom := ⟨.null, 0, 0, 0, 0, 0⟩

/-- The supplied bytes of the save image as a buffer's cells, byte 0 at index `i`. -/
def imageCells : Nat → List Byte → Memory
  | _, [] => []
  | i, b :: bs => (i, b) :: imageCells (i + 1) bs

/-- The savedata unit at power-on (R152): the buffer is `initialImage`. DESIGN CHOICE (log 34): the bytes of an image longer than
the chip are kept in the buffer; R130 and R152 do not say what becomes of them. -/
def Save.powerOn (image : List Byte) : Save := ⟨⟨imageCells 0 image, []⟩, false, Flash.idle, Eeprom.idle⟩

/-- The render proxy as constructed (R153). DESIGN CHOICE (log 31): it has posted no message. R950 calls power-on a reset with
the proxy constructed and R951 has a reset post the clear message; whether power-on posts one the spec leaves open. -/
def Proxy.constructed : Proxy where
  palette := []
  vram := []
  oam := []
  dirtyRegs := []
  dirtyPalette := false
  dirtyOam := false
  dirtyVram := []
  queue := []
  delay := 0
  skipFrame := false
  currentFrame := 0
  backing := none
  posted := []
  awaiting := 0

/-- The machine right after power-on and reset with the parameters of `Config.resetParams` (R150, R152, R153): Supervisor
mode, I = F = 1, T = 0, A = 0x00000000, memory with nothing listed. DESIGN CHOICE (log 2): the registers, flags and SPSRs
the spec leaves unspecified are 0. -/
def State.reset : State where
  params := Config.resetParams
  regs := Vector.replicate 30 0#32
  pc := 0#32
  cpsr := { n := false, z := false, c := false, v := false, i := true, f := true, t := false, m := .svc }
  spsr := ⟨0, 0, 0, 0, 0⟩
  cycles := 0
  afterUserLdm := false
  stale := []
  irqLine := false
  dma3Count := 0
  dma3Enable := false
  mem := []
  ioLog := []
  swiCalls := []
  save := Save.powerOn Config.resetParams.initialImage
  proxy := Proxy.constructed
  draws := 0
  schedule := []
  outputs := []

end Sys2Proof.Machine
end

