-- ==== Sys2Proof/Machine/Flags.lean ====
section
/-! DEFINITION. The condition check (R411) and the ALU flag laws (R420 to R433), on exact integers narrowed at the end. -/

namespace Sys2Proof.Machine

/-- The condition passes on these flags (R411). NV never passes (R412, the alternative; `runArm` asks first). -/
def condHolds (c : Cond) (p : Cpsr) : Bool :=
  match c with
  | .eq => p.z
  | .ne => !p.z
  | .cs => p.c
  | .cc => !p.c
  | .mi => p.n
  | .pl => !p.n
  | .vs => p.v
  | .vc => !p.v
  | .hi => p.c && !p.z
  | .ls => !p.c || p.z
  | .ge => p.n == p.v
  | .lt => p.n != p.v
  | .gt => !p.z && p.n == p.v
  | .le => p.z || p.n != p.v
  | .al => true
  | .nv => false

/-- What an ALU computation yields: the result, the C flag, and the V flag where the operation writes it. -/
structure AluOut where
  r : Word
  c : Bool
  v : Option Bool
  deriving DecidableEq, Repr

/-- The addition law (R430), with carry-in. -/
def addLaw (a b : Word) (cin : Bool) : AluOut :=
  let sum := a.toNat + b.toNat + cin.toNat
  let r := BitVec.ofNat 32 sum
  { r := r, c := decide (sum > 0xFFFFFFFF), v := some (a.msb == b.msb && r.msb != a.msb) }

/-- The subtraction law (R431): minuend, subtrahend, borrow-in. -/
def subLaw (a b : Word) (bin : Bool) : AluOut :=
  let d : Int := (a.toNat : Int) - b.toNat - bin.toNat
  let r := BitVec.ofInt 32 d
  { r := r, c := decide (a.toNat ≥ b.toNat + bin.toNat), v := some (a.msb != b.msb && r.msb != a.msb) }

/-- The law of the logical operations (R432): C is the shifter carry, V is not written. -/
def logicLaw (r : Word) (sc : Bool) : AluOut := { r := r, c := sc, v := none }

/-- N and Z of a result (R111, R112). -/
def Cpsr.setNZ (p : Cpsr) (r : Word) : Cpsr := { p with n := r.msb, z := decide (r = 0#32) }

/-- N, Z, C, and V where it is written (R430 to R432). -/
def Cpsr.setAlu (p : Cpsr) (o : AluOut) : Cpsr :=
  { p with n := o.r.msb, z := decide (o.r = 0#32), c := o.c, v := o.v.getD p.v }

end Sys2Proof.Machine
end

