-- ==== Sys2Proof/Machine/Assoc.lean ====
section
/-! DEFINITION. Sparse data by key, in one canonical form: keys strictly rising (and, where an unlisted byte reads as 0, no
listed zero). External memory (R202), the shadow regions (R140), the dirty registers (R141), the save buffer (R130). -/

namespace Sys2Proof.Machine

/-- The value at a key. -/
def Assoc.get? {α : Type} : Assoc α → Nat → Option α
  | [], _ => none
  | (k, v) :: rest, a => if k = a then some v else Assoc.get? rest a

/-- Writing the value at a key: the entry is replaced, or put in its place. -/
def Assoc.set {α : Type} : Assoc α → Nat → α → Assoc α
  | [], a, v => [(a, v)]
  | (k, w) :: rest, a, v =>
    if a < k then (a, v) :: (k, w) :: rest
    else if a = k then (a, v) :: rest
    else (k, w) :: Assoc.set rest a v

/-- Removing the entry at a key. -/
def Assoc.erase {α : Type} (m : Assoc α) (a : Nat) : Assoc α := m.filter (fun e => e.1 != a)

/-- The keys rise strictly from `lo` on. -/
def Assoc.sortedFrom {α : Type} : Nat → Assoc α → Bool
  | _, [] => true
  | lo, (k, _) :: rest => decide (lo ≤ k) && Assoc.sortedFrom (k + 1) rest

/-- The canonical form: keys strictly rising. -/
def Assoc.sorted {α : Type} (m : Assoc α) : Bool := Assoc.sortedFrom 0 m

/-- External memory in canonical form (an unlisted byte has no value, so no entry is redundant). -/
def Memory.wf (m : Memory) : Bool := Assoc.sorted m

/-- A byte of external memory, if anything has written it (R202). -/
def Memory.read (m : Memory) (a : Nat) : Option Byte := Assoc.get? m a

/-- Writing a byte of external memory. -/
def Memory.write (m : Memory) (a : Nat) (v : Byte) : Memory := Assoc.set m a v

/-- A byte of a shadow region: 0 where none is listed (R153). -/
def Memory.readZ (m : Memory) (a : Nat) : Byte := (Assoc.get? m a).getD 0#8

/-- Writing a byte of a shadow region; writing 0 removes the entry. -/
def Memory.writeZ (m : Memory) (a : Nat) (v : Byte) : Memory :=
  if v = 0#8 then Assoc.erase m a else Assoc.set m a v

/-- A shadow region in canonical form: keys strictly rising and below the size, no zero listed. -/
def Memory.wfZ (size : Nat) (m : Memory) : Bool :=
  Assoc.sorted m && m.all (fun e => decide (e.1 < size) && e.2 != 0#8)

/-- Adding a number to a strictly rising list of numbers (a set in canonical form). -/
def insertNat : Nat → List Nat → List Nat
  | a, [] => [a]
  | a, k :: rest => if a < k then a :: k :: rest else if a = k then k :: rest else k :: insertNat a rest

/-- The numbers rise strictly from `lo` on. -/
def risingFrom : Nat → List Nat → Bool
  | _, [] => true
  | lo, k :: rest => decide (lo ≤ k) && risingFrom (k + 1) rest

/-- A set of numbers in canonical form. -/
def rising (l : List Nat) : Bool := risingFrom 0 l

/-! ### Bytes of a value, little-endian (R205) -/

/-- Byte `i` of a word, byte 0 the lowest. -/
def byteOf (v : Word) (i : Nat) : Byte := v.extractLsb' (8 * i) 8

/-- The word whose low bytes are the given ones, lowest first, the rest zero (R205: `{byte(a+3), …, byte(a)}`). -/
def wordOfBytes : List Byte → Word
  | [] => 0
  | b :: rest => b.setWidth 32 ||| wordOfBytes rest <<< 8

/-- The address of `n` bytes that hold a value, and the value's bytes: lowest address, lowest byte (R205). -/
def cellsOf (a n : Nat) (v : Word) : List Host.Cell := (List.range n).map (fun i => (a + i, byteOf v i))

/-- Writing the low `n` bytes of a value at `a` in external memory (R205). -/
def Memory.writeN (m : Memory) (a n : Nat) (v : Word) : Memory :=
  (cellsOf a n v).foldl (fun m e => Memory.write m e.1 e.2) m

/-- Writing the low `n` bytes of a value at `a` in a shadow region (R851). -/
def Memory.writeNZ (m : Memory) (a n : Nat) (v : Word) : Memory :=
  (cellsOf a n v).foldl (fun m e => Memory.writeZ m e.1 e.2) m

/-- The `n` bytes of a shadow region at `a` as a value (R851). -/
def Memory.readNZ (m : Memory) (a n : Nat) : Word :=
  wordOfBytes ((List.range n).map (fun i => Memory.readZ m (a + i)))

/-- The `n` bytes of external memory at `a`, or the offset of the first byte nothing has written (R202). -/
def Memory.readFrom (m : Memory) (a : Nat) : Nat → Nat → Except Nat (List Byte)
  | _, 0 => .ok []
  | i, n + 1 =>
    match Memory.read m (a + i) with
    | none => .error i
    | some b =>
      match Memory.readFrom m a (i + 1) n with
      | .error j => .error j
      | .ok bs => .ok (b :: bs)

/-- The `n` bytes of external memory at `a` as a value (R205). -/
def Memory.readN (m : Memory) (a n : Nat) : Except Nat Word :=
  match Memory.readFrom m a 0 n with
  | .error i => .error i
  | .ok bs => .ok (wordOfBytes bs)

end Sys2Proof.Machine
end

