-- ==== Sys2Proof/Machine/RenderProxy.lean ====
section
/-! DEFINITION. The render proxy (49_render_proxy.md): the shadow regions, dirty tracking, the scanline queue and the
frame-skip backpressure. -/

namespace Sys2Proof.Machine

/-- The size of a region (R140, R12). -/
def proxySize (p : Params) : ProxyRegion → Nat
  | .palette => p.paletteSize
  | .vram => p.vramSize
  | .oam => p.oamSize

/-- A region's bytes. -/
def Proxy.region (x : Proxy) : ProxyRegion → Memory
  | .palette => x.palette
  | .vram => x.vram
  | .oam => x.oam

/-- A region's bytes replaced. -/
def Proxy.setRegion (x : Proxy) (r : ProxyRegion) (m : Memory) : Proxy :=
  match r with
  | .palette => { x with palette := m }
  | .vram => { x with vram := m }
  | .oam => { x with oam := m }

/-- Marking the block of an offset dirty (R852). -/
def Proxy.mark (p : Params) (x : Proxy) (r : ProxyRegion) (o : Nat) : Proxy :=
  match r with
  | .palette => { x with dirtyPalette := true }
  | .oam => { x with dirtyOam := true }
  | .vram => { x with dirtyVram := insertNat (o >>> p.vramBlockShift) x.dirtyVram }

/-- The access is aligned and within the region (R851). -/
def proxyCheck (p : Params) (r : ProxyRegion) (o n : Nat) : Except FaultReason Unit :=
  if o % n = 0 ∧ o + n ≤ proxySize p r then .ok () else .error (.proxyAccess r o n)

/-- A load of a region: the shadow's bytes, no side effect (R851, R853). -/
def proxyLoad (p : Params) (x : Proxy) (r : ProxyRegion) (o : Nat) (w : Width) : Except FaultReason Word := do
  proxyCheck p r o w.bytes
  return Memory.readNZ (x.region r) o w.bytes

/-- A byte store with `proxyByteStore` = `mirrorHalfword` (R851): both bytes of the halfword, or nothing in OAM. DESIGN CHOICE
(log 35): at the last offset of a region of odd size the second byte is written at the index `size`, without a fault; R851 is
silent there. -/
def proxyMirrorByte (p : Params) (x : Proxy) (r : ProxyRegion) (o : Nat) (v : Byte) : Proxy :=
  match r with
  | .oam => x
  | _ =>
    let e := o - o % 2
    (x.setRegion r (Memory.writeZ (Memory.writeZ (x.region r) e v) (e + 1) v)).mark p r o

/-- A store to a region (R851, R852). -/
def proxyStore (p : Params) (x : Proxy) (r : ProxyRegion) (o : Nat) (w : Width) (v : Word) : Except FaultReason Proxy := do
  proxyCheck p r o w.bytes
  if w = .byte ∧ p.proxyByteStore = .mirrorHalfword then return proxyMirrorByte p x r o (byteOf v 0)
  else return (x.setRegion r (Memory.writeNZ (x.region r) o w.bytes v)).mark p r o

/-- A forwarded write of a video register (R855): the last value of a register in `videoRegs`. -/
def Proxy.videoRegWrite (p : Params) (x : Proxy) (reg : Nat) (v : BitVec 16) : Proxy :=
  if p.videoRegs.contains reg then { x with dirtyRegs := Assoc.set x.dirtyRegs reg v } else x

/-- The dirty set is empty (R141). -/
def Proxy.clean (x : Proxy) : Bool :=
  x.dirtyRegs.isEmpty && !x.dirtyPalette && !x.dirtyOam && x.dirtyVram.isEmpty

/-- The dirty set emptied. -/
def Proxy.cleaned (x : Proxy) : Proxy :=
  { x with dirtyRegs := [], dirtyPalette := false, dirtyOam := false, dirtyVram := [] }

/-- A copy of block `k` of VRAM (R862): the non-zero bytes of that block, by their offset in VRAM. -/
def Proxy.block (p : Params) (x : Proxy) (k : Nat) : Memory :=
  x.vram.filter (fun e => e.1 >>> p.vramBlockShift == k)

/-- The record of scanline `y` (R862). -/
def Proxy.record (p : Params) (x : Proxy) (y : Nat) : ScanRecord where
  y := y
  regs := x.dirtyRegs
  palette := if x.dirtyPalette then some x.palette else none
  oam := if x.dirtyOam then some x.oam else none
  vram := x.dirtyVram.map (fun k => (k, x.block p k))

/-- `drawScanline(y)` (R862). -/
def Proxy.drawScanline (p : Params) (x : Proxy) (y : Nat) : Proxy :=
  if x.skipFrame then x
  else if x.clean then x
  else { x with queue := x.queue ++ [x.record p y] : Proxy }.cleaned

/-- `startDraw()` (R863). -/
def Proxy.startDraw (p : Params) (x : Proxy) : Proxy :=
  let skip := x.skipFrame && !decide (x.delay ≤ p.skipResume)
  let x' := { x with currentFrame := x.currentFrame + 1, skipFrame := skip }
  if skip then x'
  else { x' with delay := x.delay + 1, posted := x.posted ++ [WorkerMsg.start x.backing] }

/-- `finishDraw()` (R864). -/
def Proxy.finishDraw (x : Proxy) : Proxy :=
  if x.skipFrame then x
  else
    { x with
      posted := x.posted ++ [WorkerMsg.finish x.queue x.currentFrame]
      awaiting := x.awaiting + 1
      queue := []
      skipFrame := decide (x.delay > 2) }

/-- `clear()` (R860). -/
def Proxy.clear (p : Params) (x : Proxy) : Proxy :=
  { x with
    palette := []
    vram := []
    oam := []
    queue := []
    posted := x.posted ++ [WorkerMsg.clear p.vramSize p.oamSize] : Proxy }.cleaned

/-- `replace(palette, vram, oam)` (R861): a wrong size is a fault; every block becomes dirty. DESIGN CHOICE (log 32): where more
than one array has a wrong size the fault names the first of palette, VRAM, OAM; R861 gives no order. -/
def Proxy.replace (p : Params) (x : Proxy) (pal vr oa : Image) : Except FaultReason Proxy :=
  if pal.size ≠ p.paletteSize then .error (.proxyAccess .palette 0 pal.size)
  else if vr.size ≠ p.vramSize then .error (.proxyAccess .vram 0 vr.size)
  else if oa.size ≠ p.oamSize then .error (.proxyAccess .oam 0 oa.size)
  else .ok { x with
    palette := pal.cells
    vram := vr.cells
    oam := oa.cells
    dirtyPalette := true
    dirtyOam := true
    dirtyVram := List.range (p.vramSize >>> p.vramBlockShift) }

/-- One of the worker's pending `finish` replies (R866, R870). -/
def Proxy.workerReply (x : Proxy) (handle : Nat) : Proxy :=
  { x with delay := x.delay - 1, backing := some handle, awaiting := x.awaiting - 1 }

/-- An image the host may give: canonical bytes within its size. -/
def Image.wf (i : Image) : Bool := Memory.wfZ i.size i.cells

end Sys2Proof.Machine
end

