-- ==== Sys2Proof/Machine/Savedata.lean ====
section
/-! DEFINITION. The savedata unit (48_savedata.md): SRAM, the Flash command sequencer, the EEPROM bit protocol. Every
operation runs to completion within the access that issued it. -/

namespace Sys2Proof.Machine

/-! ### The buffer -/

/-- A byte of the buffer (R130): the listed byte; R823 for an erased sector; elsewhere a byte the host did not supply
(R152, R800). -/
def SaveBuffer.read (b : SaveBuffer) (i : Nat) : Byte :=
  match Assoc.get? b.cells i with
  | some v => v
  | none => if b.erased.contains (i / 0x1000) then 0xFF#8 else Config.savedByte i

/-- Writing a byte of the buffer; 0xFF in an erased sector is what an unlisted byte reads as, so it is not listed. -/
def SaveBuffer.write (b : SaveBuffer) (i : Nat) (v : Byte) : SaveBuffer :=
  if b.erased.contains (i / 0x1000) && v = 0xFF#8 then { b with cells := Assoc.erase b.cells i }
  else { b with cells := Assoc.set b.cells i v }

/-- Setting every byte of 4 KiB sector `n` to 0xFF (R823(b)). -/
def SaveBuffer.eraseSector (b : SaveBuffer) (n : Nat) : SaveBuffer :=
  { cells := b.cells.filter (fun e => e.1 / 0x1000 != n), erased := insertNat n b.erased }

/-- Setting every byte of a buffer of `size` bytes to 0xFF (R823(a)). -/
def SaveBuffer.eraseAll (size : Nat) : SaveBuffer := { cells := [], erased := List.range (size / 0x1000) }

/-- The canonical form: cells and erased sectors strictly rising, no 0xFF listed in an erased sector. -/
def SaveBuffer.wf (b : SaveBuffer) : Bool :=
  Assoc.sorted b.cells && rising b.erased && b.cells.all (fun e => !(b.erased.contains (e.1 / 0x1000) && e.2 = 0xFF#8))

/-! ### SRAM -/

/-- The access lies within the chip; the fault names the first byte index beyond it (R800). -/
def sramCheck (size o n : Nat) : Except FaultReason Unit :=
  if o + n ≤ size then .ok () else .error (.savedataRange .sram (max o size))

/-- An SRAM load of `n` bytes (R800). -/
def sramLoad (p : Params) (s : Save) (o n : Nat) : Except FaultReason Word := do
  sramCheck p.sramSize o n
  return wordOfBytes ((List.range n).map (fun i => s.buffer.read (o + i)))

/-- An SRAM store of `n` bytes; it sets `writePending` (R801). -/
def sramStore (p : Params) (s : Save) (o n : Nat) (v : Word) : Except FaultReason Save := do
  sramCheck p.sramSize o n
  return { s with
    buffer := (cellsOf o n v).foldl (fun b e => b.write e.1 e.2) s.buffer
    writePending := true }

/-! ### Flash -/

/-- The size of the Flash part (R132). -/
def flashSize (kind : SaveKind) : Nat := if kind = .flash128 then 0x20000 else 0x10000

/-- The manufacturer and device bytes (R812). -/
def flashId (kind : SaveKind) : Byte × Byte := if kind = .flash128 then (0x62, 0x13) else (0x32, 0x1B)

/-- The byte index a load or store at offset `o` reaches: `bank * 0x10000 + o` (R811, R820). DESIGN CHOICE (log 33): an offset
above 0xFFFF, which only a `route` other than the default can pass, is neither cut to 16 bits nor refused. -/
def flashIndex (f : Flash) (o : Nat) : Nat := f.bank.val * 0x10000 + o

/-- `load8` of the Flash chip (R811). -/
def flashLoad8 (kind : SaveKind) (s : Save) (o : Nat) : Byte :=
  if s.flash.idMode && o = 0 then (flashId kind).1
  else if s.flash.idMode && o = 1 then (flashId kind).2
  else s.buffer.read (flashIndex s.flash o)

/-- A command byte after a full unlock (R820, R821). -/
def flashCommand (f : Flash) (v : Byte) : Flash :=
  if v = 0x80#8 then { f with pendingCommand := true }
  else if v = 0x90#8 then { f with idMode := true }
  else if v = 0xF0#8 then { f with idMode := false }
  else if v = 0xA0#8 then { f with command := .write }
  else if v = 0xB0#8 then { f with command := .bank }
  else f

/-- A store in the idle state: the unlock cycles and the command byte (R820, R821, R825). -/
def flashIdleStore (f : Flash) (o : Nat) (v : Byte) : Flash :=
  if f.unlock = 2 then
    let f' := { f with unlock := 0 }
    if o = 0x5555 then flashCommand f' v else f'
  else if v = 0xAA#8 && o = 0x5555 then { f with unlock := 1 }
  else if v = 0x55#8 && o = 0x2AAA && f.unlock = 1 then
    if f.pendingCommand then { f with command := .erase, unlock := 0 } else { f with unlock := 2 }
  else { f with unlock := 0 }

/-- `store8` of the Flash chip: the command sequencer (R820, R822 to R825). -/
def flashStore8 (kind : SaveKind) (s : Save) (o : Nat) (v : Byte) : Save :=
  let f := s.flash
  match f.command with
  | .write =>
    { s with
      buffer := s.buffer.write (flashIndex f o) v
      writePending := true
      flash := { f with command := .none } }
  | .bank =>
    { s with
      flash := { f with
        bank := if kind = .flash128 && o = 0 then (if v = 0x01#8 then 1 else 0) else f.bank
        command := .none } }
  | .erase =>
    let f' := { f with command := .none, pendingCommand := false }
    if v = 0x10#8 && o = 0x5555 then
      { s with buffer := SaveBuffer.eraseAll (flashSize kind), writePending := true, flash := f' }
    else if v = 0x30#8 then
      { s with buffer := s.buffer.eraseSector (flashIndex f o / 0x1000), writePending := true, flash := f' }
    else { s with flash := f' }
  | .none => { s with flash := flashIdleStore f o v }

/-! ### EEPROM -/

/-- The block a cursor that holds an address points at lies within the part (R837). -/
def eepromCheck (size cursor : Nat) : Except FaultReason Unit :=
  if 8 * (cursor / 64) + 8 ≤ size then .ok () else .error (.eepromRange (cursor / 64))

/-- The width inferred from the DMA transfer length at the second header bit `b` (R832). -/
def eepromLatch (count : Nat) (b : Bool) : Except FaultReason Nat :=
  let width : Int := (count : Int) - (if b then 3 else 67)
  if width = 6 then .ok 6 else if width = 14 then .ok 14 else .error (.eepromAddressWidth width)

/-- Bit `j` of the buffer as the wire numbers it: the most significant bit of the lowest byte first (R833, D33). -/
def eepromBit (b : SaveBuffer) (j : Nat) : Bool := (b.read (j / 8)).getLsbD (7 - j % 8)

/-- Writing bit `j` of the buffer (R833). -/
def eepromSetBit (b : SaveBuffer) (j : Nat) (v : Bool) : SaveBuffer :=
  let mask : Byte := 1#8 <<< (7 - j % 8)
  let old := b.read (j / 8)
  b.write (j / 8) (if v then old ||| mask else old &&& ~~~mask)

/-- An address bit shifted into a cursor: `(cursor << 1) OR (b << 6)` (R833). -/
def eepromShiftIn (cursor : Nat) (b : Bool) : Nat := cursor <<< 1 ||| (b.toNat <<< 6)

/-- `store16` of the EEPROM: one bit of the protocol (R831 to R835, R837). -/
def eepromStore16 (p : Params) (count : Nat) (s : Save) (b : Bool) : Except FaultReason Save :=
  let e := s.eeprom
  match e.command with
  | .pending => do
    let bits ← if e.addressBits = 0 then eepromLatch count b else .ok e.addressBits
    if b then
      return { s with eeprom := { e with addressBits := bits, command := .readPending, commandBitsRemaining := bits + 1, readAddress := 0 } }
    else
      return { s with eeprom := { e with addressBits := bits, command := .write, commandBitsRemaining := bits + 65, writeAddress := 0 } }
  | .write =>
    let r := e.commandBitsRemaining - 1
    if r > 64 then do
      let cursor := eepromShiftIn e.writeAddress b
      if r = 65 then eepromCheck p.eepromSize cursor
      return { s with eeprom := { e with commandBitsRemaining := r, writeAddress := cursor } }
    else if r = 0 then
      return { s with eeprom := { e with commandBitsRemaining := r, command := .null }, writePending := true }
    else
      return { s with
        buffer := eepromSetBit s.buffer e.writeAddress b
        eeprom := { e with commandBitsRemaining := r, writeAddress := e.writeAddress + 1 } }
  | .readPending =>
    let r := e.commandBitsRemaining - 1
    if r > 0 then do
      let cursor := eepromShiftIn e.readAddress b
      if r = 1 then eepromCheck p.eepromSize cursor
      return { s with eeprom := { e with commandBitsRemaining := r, readAddress := cursor } }
    else
      return { s with eeprom := { e with commandBitsRemaining := r, command := .read, readBitsRemaining := 68 } }
  | .null | .read =>
    return { s with eeprom := { e with command := if b then .pending else .null } }

/-- `load16` of the EEPROM: one bit of the response, or the ready level 1 (R836). -/
def eepromLoad16 (enable : Bool) (s : Save) : Word × Save :=
  let e := s.eeprom
  if e.command ≠ .read || !enable then (1, s)
  else
    let r := e.readBitsRemaining - 1
    if r ≥ 64 then (0, { s with eeprom := { e with readBitsRemaining := r } })
    else
      let j := ((e.readAddress : Int) + (63 - r)).toNat
      ((if eepromBit s.buffer j then 1 else 0),
        { s with eeprom := { e with readBitsRemaining := r, command := if r = 0 then .null else e.command } })

/-! ### The unit's load/store surface -/

/-- A load of the savedata unit, zero-extended (R223, R800, R810, R811, R830, R836). -/
def saveLoad (p : Params) (enable : Bool) (s : Save) (o : Nat) (w : Width) : Except FaultReason (Word × Save) :=
  match p.saveKind with
  | .sram => do return (← sramLoad p s o w.bytes, s)
  | .flash64 | .flash128 =>
    match w with
    | .byte => .ok ((flashLoad8 p.saveKind s o).setWidth 32, s)
    | _ => .error (.savedataWidth p.saveKind w)
  | .eeprom =>
    match w with
    | .half => .ok (eepromLoad16 enable s)
    | _ => .error (.savedataWidth .eeprom w)

/-- A store of the savedata unit (R223, R801, R810, R820, R830, R833). -/
def saveStore (p : Params) (count : Nat) (s : Save) (o : Nat) (w : Width) (v : Word) : Except FaultReason Save :=
  match p.saveKind with
  | .sram => sramStore p s o w.bytes v
  | .flash64 | .flash128 =>
    match w with
    | .byte => .ok (flashStore8 p.saveKind s o (byteOf v 0))
    | _ => .error (.savedataWidth p.saveKind w)
  | .eeprom =>
    match w with
    | .half => eepromStore16 p count s (v.getLsbD 0)
    | _ => .error (.savedataWidth .eeprom w)

/-- What a reset does to the unit (R951): the sequencers idle, the buffer and `writePending` kept. -/
def Save.resetUnit (s : Save) : Save := { s with flash := Flash.idle, eeprom := Eeprom.idle }

end Sys2Proof.Machine
end

