-- ==== Sys2Proof/Machine/Ops.lean ====
section
/-! DEFINITION. The named operations over registers, status, memory and the pc; taking an exception (R920) and the return
from one (R122); the frame every instruction runs in (R410, R700). -/

namespace Sys2Proof.Machine

/-- What an instruction answers. -/
abbrev Result := Host.Outcome State Fault Refusal

/-- A computation that may fault, as an outcome. -/
def settle : Except Fault State → Result
  | .ok s => .next s
  | .error f => .fault f

/-- A unit's answer, as the CPU unit or the host sees it: a fault leaves the block as it is (R900). -/
def stopAt {α : Type} (s : State) : Except FaultReason α → Except Fault α
  | .ok a => .ok a
  | .error r => .error (.stop r s)

/-- What a faulting instruction leaves (R900, D8): the accesses it performed through the memory interface (the bytes, the I/O
records, the units, the free values and service calls used up), and no register, flag or pc. -/
def State.leave (s u : State) : State :=
  { s with mem := u.mem, ioLog := u.ioLog, swiCalls := u.swiCalls, save := u.save, proxy := u.proxy, draws := u.draws }

/-- A fault of an instruction that started in `s`. -/
def Fault.within (s : State) : Fault → Fault
  | .stop r u => .stop r (s.leave u)

/-- The outcome of an instruction that started in `s`. -/
def settleFrom (s : State) : Except Fault State → Result
  | .ok t => .next t
  | .error f => .fault (f.within s)

/-! ### Unpredictable cases and free values (R14) -/

/-- `unpredictable case` with an ARM7TDMI alternative: a fault unless `arm7tdmiAlt` (R14). -/
def unpredictable (case : UnpredictableCase) (s : State) : Except Fault Unit :=
  if s.params.arm7tdmiAlt then .ok () else .error (.stop (.unpredictable case) s)

/-- The case arises where `b` holds. -/
def checkAlt (b : Bool) (case : UnpredictableCase) (s : State) : Except Fault Unit :=
  if b then unpredictable case s else .ok ()

/-- A case with no alternative: always a fault where `b` holds (R14). -/
def checkNever (b : Bool) (case : UnpredictableCase) (s : State) : Except Fault Unit :=
  if b then .error (.stop (.unpredictable case) s) else .ok ()

/-- A `draw` (R14): the next free value, and the counter advanced (log 5). -/
def draw (s : State) : Word × State := (Config.freeValue s.draws, { s with draws := s.draws + 1 })

/-! ### Modes and registers -/

/-- The encoding of a mode in CPSR.M (R101). -/
def Mode.bits : Mode → BitVec 5
  | .usr => 0x10
  | .fiq => 0x11
  | .irq => 0x12
  | .svc => 0x13
  | .abt => 0x17
  | .und => 0x1B
  | .sys => 0x1F

/-- The mode a CPSR.M value encodes, if it is one (R101). -/
def Mode.ofBits (b : BitVec 5) : Option Mode :=
  match b.toNat with
  | 0x10 => some .usr
  | 0x11 => some .fiq
  | 0x12 => some .irq
  | 0x13 => some .svc
  | 0x17 => some .abt
  | 0x1B => some .und
  | 0x1F => some .sys
  | _ => none

/-- The mode has an SPSR (R101, R120). -/
def Mode.hasSpsr : Mode → Bool
  | .usr | .sys => false
  | _ => true

/-- The mode sees its own physical register for this number: R8 to R14 in FIQ, R13 and R14 in the other exception modes
(R103, R972). -/
def Mode.banks (m : Mode) (i : RegNum) : Bool :=
  match m with
  | .usr | .sys => false
  | .fiq => decide (8 ≤ i.toNat) && decide (i.toNat < 15)
  | _ => decide (13 ≤ i.toNat) && decide (i.toNat < 15)

/-- The place in `RegFile` of visible register number `k` (0 to 14) in mode `m` (R103). -/
def physPlace (m : Mode) (k : Nat) : Nat :=
  match m with
  | .usr | .sys => k
  | .fiq => if k < 8 then k else k + 7
  | .irq => if k < 13 then k else k + 9
  | .svc => if k < 13 then k else k + 11
  | .abt => if k < 13 then k else k + 13
  | .und => if k < 13 then k else k + 15

/-- The physical register visible register `i` maps to in mode `m` (R103); R15 is not in the file. -/
def physIndex (m : Mode) (i : RegNum) : Fin 30 := Fin.ofNat 30 (physPlace m i.toNat)

/-- Register `i` (not 15) as mode `m` sees it (R103); with `m = usr` it is `xu[i]`. -/
def State.bankReg (s : State) (m : Mode) (i : RegNum) : Word := s.regs[physIndex m i]

/-- Writing register `i` (not 15) as mode `m` sees it. -/
def State.setBankReg (s : State) (m : Mode) (i : RegNum) (v : Word) : State :=
  { s with regs := s.regs.set (physIndex m i) v }

/-- `x[i]` read as an operand (R14, R106): R15 reads `A + off`, `off` 8 in ARM, 4 in Thumb, 12 in the register-shift form and
in a store. -/
def State.x (s : State) (off : Word) (i : RegNum) : Word :=
  if i = 15#4 then s.pc + off else s.bankReg s.cpsr.m i

/-- `x[i] <- v` for `i` not 15 (a write of R15 is a branch, `branchArm` and `branchThumb`). -/
def State.setX (s : State) (i : RegNum) (v : Word) : State := s.setBankReg s.cpsr.m i v

/-- A low register of a Thumb instruction. -/
def State.lo (s : State) (r : LowReg) : Word := s.x 4 r.num

/-- Writing a low register of a Thumb instruction. -/
def State.setLo (s : State) (r : LowReg) (v : Word) : State := s.setX r.num v

/-! ### The program counter -/

/-- The sequential advance by the instruction's width (R108), modulo 2^32 (R109). -/
def State.advance (s : State) (w : Word) : State := { s with pc := s.pc + w }

/-- A branch: the pc, and the pipeline refilled there (R107, R971). -/
def State.jump (s : State) (target : Word) : State := { s with pc := target, stale := [] }

/-- A write of R15 in ARM state (R107): a misaligned target is `unpredictable PcMisalignedArm`, aligned in the alternative. -/
def branchArm (v : Word) (s : State) : Except Fault State := do
  checkAlt (v.extractLsb' 0 2 != 0#2) .pcMisalignedArm s
  return s.jump (v &&& 0xFFFFFFFC#32)

/-- A write of R15 in Thumb state (R107). -/
def branchThumb (v : Word) (s : State) : State := s.jump (v &&& 0xFFFFFFFE#32)

/-- A write of R15 under the T bit of the state (R451, R661). -/
def branchByT (v : Word) (s : State) : Except Fault State :=
  if s.cpsr.t then .ok (branchThumb v s) else branchArm v s

/-- BX (R555, R556, R735): T from bit 0, then the branch in the new state. -/
def exchange (v : Word) (s : State) : Except Fault State :=
  branchByT v { s with cpsr := { s.cpsr with t := v.getLsbD 0 } }

/-! ### The status registers -/

/-- `packCPSR()` (R119, R560): N, Z, C, V, twenty zeros, I, F, T, M. -/
def Cpsr.pack (p : Cpsr) : Word :=
  putBit 32 31 p.n ||| putBit 32 30 p.z ||| putBit 32 29 p.c ||| putBit 32 28 p.v ||| putBit 32 7 p.i ||| putBit 32 6 p.f |||
    putBit 32 5 p.t ||| put 32 0 p.m.bits

/-- The mode of a status word; a value that is no mode is `fault InvalidMode` (R118). -/
def modeOfWord (w : Word) : Except FaultReason Mode :=
  match Mode.ofBits (field w 0 5) with
  | some m => .ok m
  | none => .error (.invalidMode (field w 0 5))

/-- `unpackCPSR` (R119, R122): every field from a status word; bits 27:8 are dropped. -/
def Cpsr.unpack (w : Word) : Except FaultReason Cpsr := do
  let m ← modeOfWord w
  return { n := bitAt w 31, z := bitAt w 30, c := bitAt w 29, v := bitAt w 28, i := bitAt w 7, f := bitAt w 6, t := bitAt w 5, m := m }

/-- The SPSR of a mode (R120): User and System have none. -/
def Spsrs.get (x : Spsrs) : Mode → Option Word
  | .usr | .sys => none
  | .fiq => some x.fiq
  | .irq => some x.irq
  | .svc => some x.svc
  | .abt => some x.abt
  | .und => some x.und

/-- Writing the SPSR of a mode; nothing where there is none. -/
def Spsrs.set (x : Spsrs) (m : Mode) (w : Word) : Spsrs :=
  match m with
  | .usr | .sys => x
  | .fiq => { x with fiq := w }
  | .irq => { x with irq := w }
  | .svc => { x with svc := w }
  | .abt => { x with abt := w }
  | .und => { x with und := w }

/-- The SPSR of the current mode (R121). -/
def State.spsrNow (s : State) : Option Word := s.spsr.get s.cpsr.m

/-! ### Exceptions -/

/-- The exceptions this block takes by the entry of R920 (R905): the aborts are never raised (R906), Reset is `resetCpu`. -/
inductive Exc where
  | undefined
  | swi
  | irq
  | fiq
  deriving DecidableEq, Repr

/-- The mode entered (R905). -/
def Exc.mode : Exc → Mode
  | .undefined => .und
  | .swi => .svc
  | .irq => .irq
  | .fiq => .fiq

/-- The vector (R905, R921). -/
def Exc.vector : Exc → Word
  | .undefined => 0x00000004
  | .swi => 0x00000008
  | .irq => 0x00000018
  | .fiq => 0x0000001C

/-- Exception entry (R920), one indivisible operation: the CPSR into the new mode's SPSR, the link value into its R14,
the mode changed, T = 0, I = 1, F = 1 for FIQ, the pc at the vector, where the pipeline is refilled (R971). -/
def takeException (e : Exc) (lr : Word) (s : State) : State :=
  let entered : State :=
    { s with
      spsr := s.spsr.set e.mode s.cpsr.pack
      cpsr := { s.cpsr with m := e.mode, t := false, i := true, f := s.cpsr.f || e == .fiq }
      pc := e.vector
      stale := [] }
  entered.setBankReg e.mode 14#4 lr

/-- The return from an exception (R122, R451, R661, R925): `CPSR <- SPSR`, then the write of R15 under the restored T. -/
def returnFromException (saved target : Word) (s : State) : Except Fault State := do
  let p ← stopAt s (Cpsr.unpack saved)
  branchByT target { s with cpsr := p }

/-- `Undefined(bits)` (R907): the fault or the trap, by `undefPolicy`; `w` is the instruction's width. -/
def undefined (bits w : Word) (s : State) : Except Fault State :=
  match s.params.undefPolicy with
  | .fault => .error (.stop (.undefinedInstruction bits) s)
  | .trap => .ok (takeException .undefined (s.pc + w) s)

/-! ### The memory interface -/

/-- The route entry applies to the cartridge the parameters name (R230). -/
def guardHolds (p : Params) : RouteGuard → Bool
  | .always => true
  | .sram => p.saveKind == .sram
  | .flash => p.saveKind == .flash64 || p.saveKind == .flash128
  | .eeprom => p.saveKind == .eeprom

/-- The offset passed to the unit, or the key of a memory byte (R230). -/
def routeOffset (p : Params) (a : Nat) : OffsetRule → Nat
  | .masked base mask => base + (a &&& mask)
  | .palette => a &&& (p.paletteSize - 1)
  | .vram => let o := a &&& 0x1FFFF; if o ≥ 0x18000 then o - 0x8000 else o
  | .oam => a &&& (p.oamSize - 1)
  | .sram => a &&& (p.sramSize - 1)

/-- The entry of the route that holds an address. -/
def entryCovers (p : Params) (a : Nat) (e : RouteEntry) : Bool :=
  decide (e.lo ≤ a) && decide (a ≤ e.hi) && guardHolds p e.guard

/-- `route` (R201, R230): the region of an address and the offset there; `none` where it is unmapped. -/
def classify (p : Params) (a : Word) : Option (Region × Nat) :=
  match p.route.find? (entryCovers p a.toNat) with
  | some e => some (e.region, routeOffset p a.toNat e.offset)
  | none => none

/-- A load of `n` bytes of external memory; a byte nothing has written is `fault UnwrittenRead` (R202). -/
def memLoad (m : Memory) (key n : Nat) (a : Word) : Except FaultReason Word :=
  match Memory.readN m key n with
  | .ok v => .ok v
  | .error i => .error (.unwrittenRead (a + BitVec.ofNat 32 i))

/-- The low bytes of a value, the rest zero. -/
def trimTo (w : Width) (v : Word) : Word :=
  match w with
  | .byte => v &&& 0xFF#32
  | .half => v &&& 0xFFFF#32
  | .word => v

/-- `MemRead(a, n)` (R14, R200 to R202): the value zero-extended, and the state after a read's side effects (R222). -/
def busLoad (w : Width) (a : Word) (s : State) : Except Fault (Word × State) :=
  match classify s.params a with
  | none => .error (.stop (.busFault a) s)
  | some (.ram, k) | some (.rom, k) => do return (← stopAt s (memLoad s.mem k w.bytes a), s)
  | some (.io, _) => let d := draw s; .ok (trimTo w d.1, d.2)
  | some (.palette, o) => do return (← stopAt s (proxyLoad s.params s.proxy .palette o w), s)
  | some (.vram, o) => do return (← stopAt s (proxyLoad s.params s.proxy .vram o w), s)
  | some (.oam, o) => do return (← stopAt s (proxyLoad s.params s.proxy .oam o w), s)
  | some (.save, o) => do
    let r ← stopAt s (saveLoad s.params s.dma3Enable s.save o w)
    return (r.1, { s with save := r.2 })

/-- `MemWrite(a, n, v)` (R14, R200 to R202): a `rom` write is ignored, an `io` write is recorded. -/
def busStore (w : Width) (a v : Word) (s : State) : Except Fault State :=
  match classify s.params a with
  | none => .error (.stop (.busFault a) s)
  | some (.ram, k) => .ok { s with mem := Memory.writeN s.mem k w.bytes v }
  | some (.rom, _) => .ok s
  | some (.io, _) => .ok { s with ioLog := s.ioLog ++ [⟨a, w, trimTo w v⟩] }
  | some (.palette, o) => do return { s with proxy := ← stopAt s (proxyStore s.params s.proxy .palette o w v) }
  | some (.vram, o) => do return { s with proxy := ← stopAt s (proxyStore s.params s.proxy .vram o w v) }
  | some (.oam, o) => do return { s with proxy := ← stopAt s (proxyStore s.params s.proxy .oam o w v) }
  | some (.save, o) => do return { s with save := ← stopAt s (saveStore s.params s.dma3Count s.save o w v) }

/-! ### A store and the two prefetched instructions (R250, R971) -/

/-- The width of an instruction in this state (R203). -/
def fetchWidth (s : State) : Width := if s.cpsr.t then .half else .word

/-- The width of an instruction as an address step: W of R105. -/
def instrStep (s : State) : Word := if s.cpsr.t then 2 else 4

/-- The word memory holds at an instruction address, without the read's side effects; none where a fetch would fault, and in
the I/O region, where each read is a draw anyway. -/
def peek (w : Width) (a : Word) (s : State) : Option Word :=
  match classify s.params a with
  | some (.io, _) => none
  | _ =>
    match busLoad w a s with
    | .ok r => some r.1
    | .error _ => none

/-- RAM and ROM share one memory. -/
def sharedRegion : Region → Region
  | .rom => .ram
  | r => r

/-- A store of width `w` at `a` reaches a place of the instruction of width `iw` at `x`. -/
def storeReaches (p : Params) (w : Width) (a : Word) (iw : Width) (x : Word) : Bool :=
  match classify p a, classify p x with
  | some (r, o), some (r', o') =>
    sharedRegion r == sharedRegion r' && decide (o < o' + iw.bytes) && decide (o' < o + w.bytes)
  | _, _ => false

/-- The race of a store with the instruction at `x` (R250): the older word, where the store wrote there and changed the word. -/
def raceEntry (w : Width) (a x : Word) (before after : State) : List Stale :=
  let iw := fetchWidth before
  if storeReaches before.params w a iw x && peek iw x before != peek iw x after then [⟨x, peek iw x before⟩] else []

/-- A store of the CPU unit's instruction at A = pc: `MemWrite`, and the race with the instructions at A + W and A + 2W, which
the pipeline has fetched (R250, R971). -/
def cpuStore (w : Width) (a v : Word) (s : State) : Except Fault State := do
  let t ← busStore w a v s
  let x := s.pc + instrStep s
  return { t with stale := t.stale ++ raceEntry w a x s t ++ raceEntry w a (x + instrStep s) s t }

/-! ### The accesses of the instructions -/

/-- An address with its low two bits cleared. -/
def alignWord (a : Word) : Word := a &&& 0xFFFFFFFC#32

/-- An address with its low bit cleared. -/
def alignHalf (a : Word) : Word := a &&& 0xFFFFFFFE#32

/-- The single transfers (R602 to R624, R751 to R767). -/
inductive Transfer where
  | ldr | ldrb | ldrh | ldrsb | ldrsh | str | strb | strh
  deriving DecidableEq, Repr, Inhabited

/-- The transfer is a load. -/
def Transfer.isLoad : Transfer → Bool
  | .str | .strb | .strh => false
  | _ => true

/-- The value a load delivers (R211, R213, R216, R220): a misaligned word is rotated; an odd halfword is
`unpredictable MisalignedHalfLoad`. -/
def loadValue (t : Transfer) (a : Word) (s : State) : Except Fault (Word × State) :=
  match t with
  | .ldrb => busLoad .byte a s
  | .ldrsb => do
    let r ← busLoad .byte a s
    return ((r.1.setWidth 8).signExtend 32, r.2)
  | .ldrh =>
    if a.getLsbD 0 then do
      unpredictable .misalignedHalfLoad s
      let r ← busLoad .half (alignHalf a) s
      return (r.1.rotateRight 8, r.2)
    else busLoad .half a s
  | .ldrsh =>
    if a.getLsbD 0 then do
      unpredictable .misalignedHalfLoad s
      let r ← busLoad .byte a s
      return ((r.1.setWidth 8).signExtend 32, r.2)
    else do
      let r ← busLoad .half a s
      return ((r.1.setWidth 16).signExtend 32, r.2)
  | _ => do
    let r ← busLoad .word (alignWord a) s
    return (r.1.rotateRight (8 * (a.extractLsb' 0 2).toNat), r.2)

/-- What a store writes (R212, R214, R216, R220): the low address bits of a word are ignored; an odd halfword is
`unpredictable MisalignedHalfStore`. -/
def storeValue (t : Transfer) (a v : Word) (s : State) : Except Fault State :=
  match t with
  | .strb => cpuStore .byte a v s
  | .strh => do
    checkAlt (a.getLsbD 0) .misalignedHalfStore s
    cpuStore .half (alignHalf a) v s
  | _ => cpuStore .word (alignWord a) v s

/-- The words of a block transfer from `start` on, in order, with no rotation (R215, R651, R652). -/
def loadWords (start : Word) : Nat → State → Except Fault (List Word × State)
  | 0, s => .ok ([], s)
  | n + 1, s => do
    let r ← busLoad .word (alignWord start) s
    let rs ← loadWords (start + 4) n r.2
    return (r.1 :: rs.1, rs.2)

/-- Storing the words of a block transfer from `start` on, in order (R215, R651, R653). -/
def storeWords (start : Word) : List Word → State → Except Fault State
  | [], s => .ok s
  | v :: vs, s => do
    let s' ← cpuStore .word (alignWord start) v s
    storeWords (start + 4) vs s'

/-! ### The external SWI service (R915) -/

/-- The accesses of one service call, in order; what they read stays with the service. -/
def swiAccesses : List SwiAccess → State → Except Fault State
  | [], s => .ok s
  | .load w a :: rest, s => do
    let r ← busLoad w a s
    swiAccesses rest r.2
  | .store w a v :: rest, s => do
    let s' ← cpuStore w a v s
    swiAccesses rest s'

/-- A register the service may write. -/
def setIfSome (s : State) (i : RegNum) : Option Word → State
  | none => s
  | some v => s.setX i v

/-- What a service that follows this script does (R915): its accesses, then any of R0 to R3. -/
def runScript (script : SwiScript) (s : State) : Except Fault State := do
  let s' ← swiAccesses script.accesses s
  return setIfSome (setIfSome (setIfSome (setIfSome s' 0#4 script.r0) 1#4 script.r1) 2#4 script.r2) 3#4 script.r3

/-- The call of the service (R915): recorded, and done by the script the environment draws. -/
def swiService (call : SwiCall) (s : State) : Except Fault State :=
  runScript (Config.swiService s.draws call) { s with draws := s.draws + 1, swiCalls := s.swiCalls ++ [call] }

/-- SWI (R570, R787, R908): the trap with R14_svc = A + W, or the service and the advance. -/
def softwareInterrupt (call : SwiCall) (w : Word) (s : State) : Except Fault State :=
  match s.params.swiMode with
  | .trap => .ok (takeException .swi (s.pc + w) s)
  | .external => do return (← swiService call s).advance w

/-! ### The frame of an instruction -/

/-- The state an instruction's effect starts from: the hazard of R972 is behind it. -/
def State.begun (s : State) : State := { s with afterUserLdm := false }

/-- The hazard of R972: a register of the current bank read or written right after a User-bank LDM. -/
def userLdmHazard (regs : List RegNum) (s : State) : Except Fault Unit :=
  checkAlt (s.afterUserLdm && regs.any s.cpsr.m.banks) .bankedAccessAfterUserLdm s

/-- An encoding with no unpredictable register choice. -/
def noChecks (_ : State) : Except Fault Unit := .ok ()

/-- Running an ARM instruction (R410, R412), in the order of R902: the condition, and a failed one only advances the pc; the
unpredictable cases `checks` finds in the encoding; the hazard of its first access to one of the registers `regs` it reads
or writes (R972); the body. -/
def runArm (c : Cond) (regs : List RegNum) (checks : State → Except Fault Unit) (body : State → Except Fault State)
    (s : State) : Result :=
  if c = .nv ∧ s.params.arm7tdmiAlt = false then .fault (.stop (.unpredictable .nvCondition) s)
  else if condHolds c s.cpsr then
    settleFrom s (do
      checks s.begun
      userLdmHazard regs s
      body s.begun)
  else .next (s.begun.advance 4)

/-- Running a Thumb instruction: it has no condition (R700). -/
def runThumb (body : State → Except Fault State) (s : State) : Result := settleFrom s (body s.begun)

end Sys2Proof.Machine
end

