-- ==== Sys2Proof/Machine/Operands.lean ====
section
/-! DEFINITION. The operand forms: the shifter operand with its carry (R400 to R409), the addressing modes 2 and 3
(R322, R323, R600, R620) and 4 (R650, R651). -/

namespace Sys2Proof.Machine

/-! ### The barrel shifter -/

/-- A shifter result: the value and the carry-out (R400). -/
abbrev Shifted := Word × Bool

/-- The immediate operand (R320, R402). -/
def shiftedImm (rot : BitVec 4) (imm : BitVec 8) (c : Bool) : Shifted :=
  let v := (imm.setWidth 32).rotateRight (2 * rot.toNat)
  (v, if rot = 0#4 then c else v.msb)

/-- A register shifted by an immediate amount, with the zero encodings LSR #32, ASR #32 and RRX (R403). -/
def shiftByImm (sh : ShiftKind) (n : BitVec 5) (v : Word) (c : Bool) : Shifted :=
  let k := n.toNat
  match sh with
  | .lsl => if k = 0 then (v, c) else (v <<< k, v.getLsbD (32 - k))
  | .lsr => if k = 0 then (0#32, v.msb) else (v >>> k, v.getLsbD (k - 1))
  | .asr => if k = 0 then (v.sshiftRight 32, v.msb) else (v.sshiftRight k, v.getLsbD (k - 1))
  | .ror => if k = 0 then ((v >>> 1) ||| putBit 32 31 c, v.getLsbD 0) else (v.rotateRight k, v.getLsbD (k - 1))

/-- A register shifted by a register amount `k`, 0 to 255 (R405 to R408). -/
def shiftByReg (sh : ShiftKind) (k : Nat) (v : Word) (c : Bool) : Shifted :=
  if k = 0 then (v, c)
  else
    match sh with
    | .lsl => if k < 32 then (v <<< k, v.getLsbD (32 - k)) else if k = 32 then (0#32, v.getLsbD 0) else (0#32, false)
    | .lsr => if k < 32 then (v >>> k, v.getLsbD (k - 1)) else if k = 32 then (0#32, v.msb) else (0#32, false)
    | .asr => if k < 32 then (v.sshiftRight k, v.getLsbD (k - 1)) else (v.sshiftRight 32, v.msb)
    | .ror => if k % 32 = 0 then (v, v.msb) else (v.rotateRight (k % 32), v.getLsbD (k % 32 - 1))

/-- The amount a register gives: its low byte (R404, R714). -/
def shiftAmount (w : Word) : Nat := (field w 0 8).toNat

/-- The three forms of a data-processing operand (R400). -/
inductive Operand2 where
  | imm (rot : BitVec 4) (imm8 : BitVec 8)
  | shiftImm (amt : BitVec 5) (sh : ShiftKind) (rm : RegNum)
  | shiftReg (rs : RegNum) (sh : ShiftKind) (rm : RegNum)
  deriving DecidableEq, Repr

/-- The form shifts by a register amount. -/
def Operand2.isShiftReg : Operand2 → Bool
  | .shiftReg .. => true
  | _ => false

/-- What R15 reads ahead in this form (R106, R409, R453). -/
def Operand2.pcAhead (o : Operand2) : Word := if o.isShiftReg then 12 else 8

/-- The registers the form names. -/
def Operand2.regs : Operand2 → List RegNum
  | .imm _ _ => []
  | .shiftImm _ _ rm => [rm]
  | .shiftReg rs _ rm => [rs, rm]

/-- The shifter operand and its carry (R400): it reads registers and CPSR.C and writes nothing. -/
def Operand2.eval (o : Operand2) (s : State) : Shifted :=
  match o with
  | .imm rot imm8 => shiftedImm rot imm8 s.cpsr.c
  | .shiftImm amt sh rm => shiftByImm sh amt (s.x 8 rm) s.cpsr.c
  | .shiftReg rs sh rm => shiftByReg sh (shiftAmount (s.x 12 rs)) (s.x 12 rm) s.cpsr.c

/-! ### Single transfers -/

/-- The offset of a single transfer (R322, R323). -/
inductive Offset where
  | imm (value : Word)
  | shifted (amt : BitVec 5) (sh : ShiftKind) (rm : RegNum)
  | reg (rm : RegNum)
  deriving DecidableEq, Repr

/-- The offset of a halfword transfer: bit 22 selects the immediate (R323). -/
def halfOffset (im : Bool) (hi lo : BitVec 4) : Offset :=
  if im then .imm ((hi ++ lo).setWidth 32) else .reg lo

/-- The offset register, if the form has one. -/
def Offset.reg? : Offset → Option RegNum
  | .imm _ => none
  | .shifted _ _ rm => some rm
  | .reg rm => some rm

/-- The offset's value; the shifter carry is discarded (R322). -/
def Offset.eval (o : Offset) (s : State) : Word :=
  match o with
  | .imm v => v
  | .shifted amt sh rm => (shiftByImm sh amt (s.x 8 rm) s.cpsr.c).1
  | .reg rm => s.x 8 rm

/-- P, U and W of a single transfer (R303). -/
structure Indexing where
  p : Bool
  u : Bool
  w : Bool
  deriving DecidableEq, Repr

/-- The base is written back (R600): post-indexed always, pre-indexed with W. -/
def Indexing.writesBack (x : Indexing) : Bool := !x.p || x.w

/-- The moved base (R600), modulo 2^32. -/
def Indexing.moved (x : Indexing) (base off : Word) : Word := if x.u then base + off else base - off

/-- The address of the access (R600, R620). -/
def Indexing.address (x : Indexing) (base off : Word) : Word := if x.p then x.moved base off else base

/-! ### Block transfers -/

/-- The selected registers, ascending (R324, R651). -/
def regList (list : BitVec 16) : List RegNum :=
  ((List.range 16).filter (fun k => list.getLsbD k)).map (BitVec.ofNat 4)

/-- The selected low registers of a Thumb list, ascending (R770 to R773). -/
def lowList (list : BitVec 8) : List RegNum := regList (list.setWidth 16)

/-- P and U of a block transfer (R650). -/
inductive BlockMode where
  | ia | ib | da | db
  deriving DecidableEq, Repr, Inhabited

/-- The first address, for `n` registers from this base (R650). -/
def BlockMode.start (m : BlockMode) (base : Word) (n : Nat) : Word :=
  let size := BitVec.ofNat 32 (4 * n)
  match m with
  | .ia => base
  | .ib => base + 4
  | .da => base - size + 4
  | .db => base - size

/-- The write-back value (R650). -/
def BlockMode.writeBack (m : BlockMode) (base : Word) (n : Nat) : Word :=
  let size := BitVec.ofNat 32 (4 * n)
  match m with
  | .ia | .ib => base + size
  | .da | .db => base - size

/-- Registers with their loaded values, as mode `m` sees them; R15 is not written here. -/
def writeRegs (m : Mode) : List (RegNum × Word) → State → State
  | [], s => s
  | (r, v) :: rest, s => writeRegs m rest (if r = 15#4 then s else s.setBankReg m r v)

end Sys2Proof.Machine
end

