-- ==== Sys2Proof/Machine/ArmBlockTransfer.lean ====
section
/-! DEFINITION. The ARM block transfers (45_arm_block_transfer.md): LDM and STM, their write-back, the S bit, R15 in the list
and the empty list. -/

namespace Sys2Proof.Machine

/-- The number of registers the address computation uses: 16 for the empty list (R650, R657). -/
def blockCount (list : BitVec 16) : Nat := if list = 0#16 then 16 else (regList list).length

/-- The transfer is of the User bank (R660): S = 1, and for a load no R15 in the list. -/
def userBank (load ub : Bool) (list : BitVec 16) : Bool := ub && !(load && list.getLsbD 15)

/-- Rn is the lowest register of the list (R654). -/
def isLowest (rn : RegNum) (list : BitVec 16) : Bool := (regList list).head? == some rn

/-- The unpredictable cases (R654, R657, R660). DEDUCED (log 16): `userBankInUserMode` depends on the mode, not on the encoding
alone; it is reported with the others, before an LDM's reads. -/
def blockChecks (load ub w : Bool) (rn : RegNum) (list : BitVec 16) (s : State) : Except Fault Unit := do
  checkAlt (list = 0#16) .emptyRegList s
  checkAlt (load && w && list.getLsbD rn.toNat) .ldmWbBaseInList s
  checkAlt (!load && w && list.getLsbD rn.toNat && !isLowest rn list) .stmWbBaseNotLowest s
  checkAlt (userBank load ub list && w) .userBankWb s
  checkAlt (userBank load ub list && !s.cpsr.m.hasSpsr) .userBankInUserMode s

/-- The write-back of a block transfer; with Rn = 15 the final write of the pc hides it (log 15). -/
def writeBackBlock (w : Bool) (rn : RegNum) (v : Word) (s : State) : State :=
  if w && rn != 15#4 then s.setX rn v else s

/-- The registers an LDM or STM reads or writes in the current bank (R972). -/
def blockRegs (load ub : Bool) (rn : RegNum) (list : BitVec 16) : List RegNum :=
  rn :: (if userBank load ub list then [] else regList list)

/-- The value loaded for R15 (R656, R661): a branch, with S = 1 the CPSR restore first. -/
def loadPc (ub : Bool) (v : Word) (s : State) : Except Fault State :=
  if ub then
    match s.spsrNow with
    | some saved => returnFromException saved v s
    | none => do
      unpredictable .noSpsr s
      branchArm v s
  else branchArm v s

/-- LDM with a register list (R652, R654, R656, R660, R661). -/
def loadMultiple (bm : BlockMode) (ub w : Bool) (rn : RegNum) (list : BitVec 16) (s : State) : Except Fault State := do
  let base := s.x 8 rn
  let regs := regList list
  let r ← loadWords (bm.start base (blockCount list)) regs.length s
  let s1 := writeBackBlock w rn (bm.writeBack base (blockCount list)) r.2
  let bank := if userBank true ub list then .usr else s.cpsr.m
  let s2 := writeRegs bank (regs.zip r.1) s1
  if list.getLsbD 15 then loadPc ub (r.1.getLastD 0) s2
  else return { s2 with afterUserLdm := ub }.advance 4

/-- The empty list of LDM (R657, the alternative): R15 alone is loaded, the base moves by 0x40. -/
def loadEmpty (bm : BlockMode) (w : Bool) (rn : RegNum) (s : State) : Except Fault State := do
  let base := s.x 8 rn
  let r ← busLoad .word (alignWord (bm.start base (blockCount 0#16))) s
  branchArm r.1 (writeBackBlock w rn (bm.writeBack base (blockCount 0#16)) r.2)

/-- LDM (R652). -/
def blockLoad (bm : BlockMode) (c : Cond) (ub w : Bool) (rn : RegNum) (list : BitVec 16) (s : State) : Result :=
  runArm c (blockRegs true ub rn list) (blockChecks true ub w rn list) (fun s =>
    if list = 0#16 then loadEmpty bm w rn s else loadMultiple bm ub w rn list s) s

/-- The value STM stores for a register (R653 to R655, R660). -/
def storedReg (ub w : Bool) (rn : RegNum) (list : BitVec 16) (base wbval : Word) (s : State) (r : RegNum) : Word :=
  if r = 15#4 then s.pc + 12
  else if r = rn && w then (if isLowest rn list then base else wbval)
  else s.bankReg (if ub then .usr else s.cpsr.m) r

/-- The values STM stores, in order; the empty list stores R15 alone (R657). -/
def storedValues (bm : BlockMode) (ub w : Bool) (rn : RegNum) (list : BitVec 16) (s : State) : List Word :=
  let base := s.x 8 rn
  if list = 0#16 then [s.pc + 12]
  else (regList list).map (storedReg ub w rn list base (bm.writeBack base (blockCount list)) s)

/-- STM (R653). -/
def blockStore (bm : BlockMode) (c : Cond) (ub w : Bool) (rn : RegNum) (list : BitVec 16) (s : State) : Result :=
  runArm c (blockRegs false ub rn list) (blockChecks false ub w rn list) (fun s => do
    let base := s.x 8 rn
    let s' ← storeWords (bm.start base (blockCount list)) (storedValues bm ub w rn list s) s
    return (writeBackBlock w rn (bm.writeBack base (blockCount list)) s').advance 4) s

/-! ### The meanings, one per row of the opcode table -/

/-- LDMIA, BLOCK (R652). -/
def execLdmia (c : Cond) (ub w : Bool) (rn : RegNum) (list : BitVec 16) (s : State) : Result :=
  blockLoad .ia c ub w rn list s

/-- STMIA, BLOCK (R653). -/
def execStmia (c : Cond) (ub w : Bool) (rn : RegNum) (list : BitVec 16) (s : State) : Result :=
  blockStore .ia c ub w rn list s

/-- LDMIB, BLOCK (R652). -/
def execLdmib (c : Cond) (ub w : Bool) (rn : RegNum) (list : BitVec 16) (s : State) : Result :=
  blockLoad .ib c ub w rn list s

/-- STMIB, BLOCK (R653). -/
def execStmib (c : Cond) (ub w : Bool) (rn : RegNum) (list : BitVec 16) (s : State) : Result :=
  blockStore .ib c ub w rn list s

/-- LDMDA, BLOCK (R652). -/
def execLdmda (c : Cond) (ub w : Bool) (rn : RegNum) (list : BitVec 16) (s : State) : Result :=
  blockLoad .da c ub w rn list s

/-- STMDA, BLOCK (R653). -/
def execStmda (c : Cond) (ub w : Bool) (rn : RegNum) (list : BitVec 16) (s : State) : Result :=
  blockStore .da c ub w rn list s

/-- LDMDB, BLOCK (R652). -/
def execLdmdb (c : Cond) (ub w : Bool) (rn : RegNum) (list : BitVec 16) (s : State) : Result :=
  blockLoad .db c ub w rn list s

/-- STMDB, BLOCK (R653). -/
def execStmdb (c : Cond) (ub w : Bool) (rn : RegNum) (list : BitVec 16) (s : State) : Result :=
  blockStore .db c ub w rn list s

end Sys2Proof.Machine
end

