-- ==== Sys2Proof/Machine/ArmControl.lean ====
section
/-! DEFINITION. The ARM branches, status-register access, SWI, the coprocessor and the undefined and unallocated space
(43_arm_branch_psr_swi.md). -/

namespace Sys2Proof.Machine

/-- The target of B and BL (R325, R550, R552). -/
def branchTarget (off : BitVec 24) (s : State) : Word := s.pc + 8 + (off.signExtend 32 <<< 2)

/-- B and BL (R550, R551); the target is always a multiple of 4 with A. -/
def branch (c : Cond) (link : Bool) (off : BitVec 24) (s : State) : Result :=
  runArm c (if link then [14#4] else []) noChecks (fun s =>
    let linked := if link then s.setX 14#4 (s.pc + 4) else s
    .ok (linked.jump (branchTarget off s))) s

/-- BX (R555, R556). -/
def branchExchange (c : Cond) (rm : RegNum) (s : State) : Result :=
  runArm c [rm] noChecks (fun s => exchange (s.x 8 rm) s) s

/-- The value MRS reads (R560, R121): the packed CPSR, or the SPSR; with no SPSR it is `unpredictable NoSpsr`, the CPSR in the
alternative. -/
def statusValue (spsr : Bool) (s : State) : Except Fault Word :=
  if spsr then
    match s.spsrNow with
    | some w => .ok w
    | none => do
      unpredictable .noSpsr s
      return s.cpsr.pack
  else .ok s.cpsr.pack

/-- MRS (R560). -/
def moveFromStatus (c : Cond) (spsr : Bool) (rd : RegNum) (s : State) : Result :=
  runArm c [rd] (checkNever (rd = 15#4) .mrsPc) (fun s => do
    let v ← statusValue spsr s
    return (s.setX rd v).advance 4) s

/-- The bytes the field mask selects (R303, R565, R566). -/
def byteMask (mask : BitVec 4) : Word :=
  put 32 24 (if bitAt mask 3 then 0xFF#8 else 0#8) ||| put 32 16 (if bitAt mask 2 then 0xFF#8 else 0#8) |||
    put 32 8 (if bitAt mask 1 then 0xFF#8 else 0#8) ||| put 32 0 (if bitAt mask 0 then 0xFF#8 else 0#8)

/-- The selected bytes of `new`, the others of `old` (R565). -/
def mergeBytes (mask : BitVec 4) (old new : Word) : Word := (old &&& ~~~byteMask mask) ||| (new &&& byteMask mask)

/-- MSR to the CPSR (R565 to R567): User mode writes the f byte only; T never changes; a non-mode is a fault. -/
def writeCpsr (mask : BitVec 4) (v : Word) (s : State) : Except Fault State := do
  let mask := if s.cpsr.m = .usr then mask &&& 0b1000#4 else mask
  let new := mergeBytes mask s.cpsr.pack v
  let p := { s.cpsr with n := bitAt new 31, z := bitAt new 30, c := bitAt new 29, v := bitAt new 28 }
  if bitAt mask 0 then
    checkNever (bitAt new 5 != s.cpsr.t) .msrChangesT s
    let m ← stopAt s (modeOfWord new)
    return { s with cpsr := { p with i := bitAt new 7, f := bitAt new 6, m := m } }
  else return { s with cpsr := p }

/-- MSR to the SPSR of the current mode (R565): every selected bit is stored. -/
def writeSpsr (mask : BitVec 4) (v : Word) (s : State) : Except Fault State :=
  match s.spsrNow with
  | some w => .ok { s with spsr := s.spsr.set s.cpsr.m (mergeBytes mask w v) }
  | none => do
    unpredictable .noSpsr s
    return s

/-- MSR (R565): `rm` is the register form's register. -/
def moveToStatus (c : Cond) (spsr : Bool) (mask : BitVec 4) (o : Operand2) (s : State) : Result :=
  runArm c o.regs (checkNever (o.regs.contains 15#4) .msrPc) (fun s => do
    let v := (o.eval s).1
    let s' ← if spsr then writeSpsr mask v s else writeCpsr mask v s
    return s'.advance 4) s

/-- A word that is undefined (R580, R585, R586, R907). -/
def undefinedArm (c : Cond) (w : Word) (s : State) : Result := runArm c [] noChecks (undefined w 4) s

/-- A word or halfword that matches no row (R586, R786): as the undefined instruction, with an ARM word's condition. -/
def unallocated (k : Code) (s : State) : Result :=
  match k with
  | .arm w => undefinedArm (Cond.ofBits (field w 28 4)) w s
  | .thumb h => runThumb (undefined (h.setWidth 32) 2) s

/-- The word of a code, for `Undefined(bits)`. -/
def codeBits : Code → Word
  | .arm w => w
  | .thumb h => h.setWidth 32

/-! ### The meanings, one per row of the opcode table -/

/-- MRS, PSR (R560). -/
def execMrs (c : Cond) (spsr : Bool) (rd : RegNum) (s : State) : Result :=
  moveFromStatus c spsr rd s

/-- MSR, PSR_REG (R565). -/
def execMsrReg (c : Cond) (spsr : Bool) (mask : BitVec 4) (rm : RegNum) (s : State) : Result :=
  moveToStatus c spsr mask (.shiftImm 0#5 .lsl rm) s

/-- MSR, PSR_IMM (R565). -/
def execMsrImm (c : Cond) (spsr : Bool) (mask rot : BitVec 4) (imm : BitVec 8) (s : State) : Result :=
  moveToStatus c spsr mask (.imm rot imm) s

/-- BX, BX (R555). -/
def execBx (c : Cond) (rm : RegNum) (s : State) : Result :=
  branchExchange c rm s

/-- UND, UNDEFINED (R585). -/
def execUnd (c : Cond) (hi : BitVec 20) (lo : BitVec 4) (s : State) : Result :=
  undefinedArm c (undWord c hi lo) s

/-- B, BRANCH (R550). -/
def execB (c : Cond) (off : BitVec 24) (s : State) : Result :=
  branch c false off s

/-- BL, BRANCH (R551). -/
def execBl (c : Cond) (off : BitVec 24) (s : State) : Result :=
  branch c true off s

/-- STC, COPROC_DT (R580). -/
def execStc (c : Cond) (ix : BitVec 4) (rn : RegNum) (crd cp : BitVec 4) (off : BitVec 8) (s : State) : Result :=
  undefinedArm c (codeBits (encode (.stc c ix rn crd cp off))) s

/-- LDC, COPROC_DT (R580). -/
def execLdc (c : Cond) (ix : BitVec 4) (rn : RegNum) (crd cp : BitVec 4) (off : BitVec 8) (s : State) : Result :=
  undefinedArm c (codeBits (encode (.ldc c ix rn crd cp off))) s

/-- CDP, COPROC_DO (R580). -/
def execCdp (c : Cond) (op1 crn crd cp : BitVec 4) (op2 : BitVec 3) (crm : BitVec 4) (s : State) : Result :=
  undefinedArm c (codeBits (encode (.cdp c op1 crn crd cp op2 crm))) s

/-- MCR, COPROC_RT (R580). -/
def execMcr (c : Cond) (op1 : BitVec 3) (crn : BitVec 4) (rd : RegNum) (cp : BitVec 4) (op2 : BitVec 3) (crm : BitVec 4) (s : State) : Result :=
  undefinedArm c (codeBits (encode (.mcr c op1 crn rd cp op2 crm))) s

/-- MRC, COPROC_RT (R580). -/
def execMrc (c : Cond) (op1 : BitVec 3) (crn : BitVec 4) (rd : RegNum) (cp : BitVec 4) (op2 : BitVec 3) (crm : BitVec 4) (s : State) : Result :=
  undefinedArm c (codeBits (encode (.mrc c op1 crn rd cp op2 crm))) s

/-- SWI, SWI (R570). -/
def execSwi (c : Cond) (comment : BitVec 24) (s : State) : Result :=
  runArm c [] noChecks (softwareInterrupt (.swi32 comment) 4) s

end Sys2Proof.Machine
end

