-- ==== Sys2Proof/Machine/ArmDataProcessing.lean ====
section
/-! DEFINITION. The ARM data-processing instructions (41_arm_data_processing.md): one template, sixteen opcodes, three
operand forms. -/

namespace Sys2Proof.Machine

/-- The opcode's computation on `a` and the shifter operand, with the carry-in and the shifter carry (R460 to R475). -/
def dpCompute (op : DpOp) (a b : Word) (cin sc : Bool) : AluOut :=
  match op with
  | .and | .tst => logicLaw (a &&& b) sc
  | .eor | .teq => logicLaw (a ^^^ b) sc
  | .sub | .cmp => subLaw a b false
  | .rsb => subLaw b a false
  | .add | .cmn => addLaw a b false
  | .adc => addLaw a b cin
  | .sbc => subLaw a b (!cin)
  | .rsc => subLaw b a (!cin)
  | .orr => logicLaw (a ||| b) sc
  | .mov => logicLaw b sc
  | .bic => logicLaw (a &&& ~~~b) sc
  | .mvn => logicLaw (~~~b) sc

/-- The registers an instruction of the template reads or writes. -/
def dpRegs (op : DpOp) (rn rd : RegNum) (o : Operand2) : List RegNum :=
  (if op.ignoresRn then [] else [rn]) ++ (if op.isCompare then [] else [rd]) ++ o.regs

/-- The register choices of the register-shift form the encoding makes unpredictable (R404, R453, R454). -/
def dpChecks (op : DpOp) (rn rd : RegNum) (o : Operand2) (s : State) : Except Fault Unit :=
  match o with
  | .shiftReg rs _ _ => do
    checkAlt (rs = 15#4) .regShiftRsPc s
    checkAlt (rn = 15#4 && !op.ignoresRn) .regShiftRnPc s
    checkAlt (rd = 15#4 && !op.isCompare) .regShiftRdPc s
  | _ => .ok ()

/-- Rd = 15 with S = 1 (R451): the CPSR restore and the branch; without an SPSR `unpredictable NoSpsr`, whose alternative
sets the flags and branches. -/
def dpReturn (out : AluOut) (s : State) : Except Fault State :=
  match s.spsrNow with
  | some saved => returnFromException saved out.r s
  | none => do
    unpredictable .noSpsr s
    branchArm out.r { s with cpsr := s.cpsr.setAlu out }

/-- The result written and the pc moved (R450). -/
def dpWrite (op : DpOp) (f : Bool) (rd : RegNum) (out : AluOut) (s : State) : Except Fault State :=
  let flagged := if f then { s with cpsr := s.cpsr.setAlu out } else s
  if op.isCompare then .ok (flagged.advance 4)
  else if rd = 15#4 then
    if f then dpReturn out s else branchArm out.r s
  else .ok ((flagged.setX rd out.r).advance 4)

/-- The value a data-processing instruction computes, all operands read before anything is written (R450). -/
def dpResult (op : DpOp) (rn : RegNum) (o : Operand2) (s : State) : AluOut :=
  let sh := o.eval s
  dpCompute op (s.x o.pcAhead rn) sh.1 s.cpsr.c sh.2

/-- The template (R450). -/
def dataProcessing (op : DpOp) (c : Cond) (f : Bool) (rn rd : RegNum) (o : Operand2) (s : State) : Result :=
  runArm c (dpRegs op rn rd o) (dpChecks op rn rd o) (fun s => dpWrite op f rd (dpResult op rn o s) s) s

/-! ### The meanings, one per row of the opcode table -/

/-- AND, DP_IMM (R460). -/
def execAndImm (c : Cond) (f : Bool) (rn rd : RegNum) (rot : BitVec 4) (imm : BitVec 8) (s : State) : Result :=
  dataProcessing .and c f rn rd (.imm rot imm) s

/-- AND, DP_REG_IMMSHIFT (R460). -/
def execAndShiftImm (c : Cond) (f : Bool) (rn rd : RegNum) (amt : BitVec 5) (sh : ShiftKind) (rm : RegNum) (s : State) : Result :=
  dataProcessing .and c f rn rd (.shiftImm amt sh rm) s

/-- AND, DP_REG_REGSHIFT (R460). -/
def execAndShiftReg (c : Cond) (f : Bool) (rn rd rs : RegNum) (sh : ShiftKind) (rm : RegNum) (s : State) : Result :=
  dataProcessing .and c f rn rd (.shiftReg rs sh rm) s

/-- EOR, DP_IMM (R461). -/
def execEorImm (c : Cond) (f : Bool) (rn rd : RegNum) (rot : BitVec 4) (imm : BitVec 8) (s : State) : Result :=
  dataProcessing .eor c f rn rd (.imm rot imm) s

/-- EOR, DP_REG_IMMSHIFT (R461). -/
def execEorShiftImm (c : Cond) (f : Bool) (rn rd : RegNum) (amt : BitVec 5) (sh : ShiftKind) (rm : RegNum) (s : State) : Result :=
  dataProcessing .eor c f rn rd (.shiftImm amt sh rm) s

/-- EOR, DP_REG_REGSHIFT (R461). -/
def execEorShiftReg (c : Cond) (f : Bool) (rn rd rs : RegNum) (sh : ShiftKind) (rm : RegNum) (s : State) : Result :=
  dataProcessing .eor c f rn rd (.shiftReg rs sh rm) s

/-- SUB, DP_IMM (R462). -/
def execSubImm (c : Cond) (f : Bool) (rn rd : RegNum) (rot : BitVec 4) (imm : BitVec 8) (s : State) : Result :=
  dataProcessing .sub c f rn rd (.imm rot imm) s

/-- SUB, DP_REG_IMMSHIFT (R462). -/
def execSubShiftImm (c : Cond) (f : Bool) (rn rd : RegNum) (amt : BitVec 5) (sh : ShiftKind) (rm : RegNum) (s : State) : Result :=
  dataProcessing .sub c f rn rd (.shiftImm amt sh rm) s

/-- SUB, DP_REG_REGSHIFT (R462). -/
def execSubShiftReg (c : Cond) (f : Bool) (rn rd rs : RegNum) (sh : ShiftKind) (rm : RegNum) (s : State) : Result :=
  dataProcessing .sub c f rn rd (.shiftReg rs sh rm) s

/-- RSB, DP_IMM (R463). -/
def execRsbImm (c : Cond) (f : Bool) (rn rd : RegNum) (rot : BitVec 4) (imm : BitVec 8) (s : State) : Result :=
  dataProcessing .rsb c f rn rd (.imm rot imm) s

/-- RSB, DP_REG_IMMSHIFT (R463). -/
def execRsbShiftImm (c : Cond) (f : Bool) (rn rd : RegNum) (amt : BitVec 5) (sh : ShiftKind) (rm : RegNum) (s : State) : Result :=
  dataProcessing .rsb c f rn rd (.shiftImm amt sh rm) s

/-- RSB, DP_REG_REGSHIFT (R463). -/
def execRsbShiftReg (c : Cond) (f : Bool) (rn rd rs : RegNum) (sh : ShiftKind) (rm : RegNum) (s : State) : Result :=
  dataProcessing .rsb c f rn rd (.shiftReg rs sh rm) s

/-- ADD, DP_IMM (R464). -/
def execAddImm (c : Cond) (f : Bool) (rn rd : RegNum) (rot : BitVec 4) (imm : BitVec 8) (s : State) : Result :=
  dataProcessing .add c f rn rd (.imm rot imm) s

/-- ADD, DP_REG_IMMSHIFT (R464). -/
def execAddShiftImm (c : Cond) (f : Bool) (rn rd : RegNum) (amt : BitVec 5) (sh : ShiftKind) (rm : RegNum) (s : State) : Result :=
  dataProcessing .add c f rn rd (.shiftImm amt sh rm) s

/-- ADD, DP_REG_REGSHIFT (R464). -/
def execAddShiftReg (c : Cond) (f : Bool) (rn rd rs : RegNum) (sh : ShiftKind) (rm : RegNum) (s : State) : Result :=
  dataProcessing .add c f rn rd (.shiftReg rs sh rm) s

/-- ADC, DP_IMM (R465). -/
def execAdcImm (c : Cond) (f : Bool) (rn rd : RegNum) (rot : BitVec 4) (imm : BitVec 8) (s : State) : Result :=
  dataProcessing .adc c f rn rd (.imm rot imm) s

/-- ADC, DP_REG_IMMSHIFT (R465). -/
def execAdcShiftImm (c : Cond) (f : Bool) (rn rd : RegNum) (amt : BitVec 5) (sh : ShiftKind) (rm : RegNum) (s : State) : Result :=
  dataProcessing .adc c f rn rd (.shiftImm amt sh rm) s

/-- ADC, DP_REG_REGSHIFT (R465). -/
def execAdcShiftReg (c : Cond) (f : Bool) (rn rd rs : RegNum) (sh : ShiftKind) (rm : RegNum) (s : State) : Result :=
  dataProcessing .adc c f rn rd (.shiftReg rs sh rm) s

/-- SBC, DP_IMM (R466). -/
def execSbcImm (c : Cond) (f : Bool) (rn rd : RegNum) (rot : BitVec 4) (imm : BitVec 8) (s : State) : Result :=
  dataProcessing .sbc c f rn rd (.imm rot imm) s

/-- SBC, DP_REG_IMMSHIFT (R466). -/
def execSbcShiftImm (c : Cond) (f : Bool) (rn rd : RegNum) (amt : BitVec 5) (sh : ShiftKind) (rm : RegNum) (s : State) : Result :=
  dataProcessing .sbc c f rn rd (.shiftImm amt sh rm) s

/-- SBC, DP_REG_REGSHIFT (R466). -/
def execSbcShiftReg (c : Cond) (f : Bool) (rn rd rs : RegNum) (sh : ShiftKind) (rm : RegNum) (s : State) : Result :=
  dataProcessing .sbc c f rn rd (.shiftReg rs sh rm) s

/-- RSC, DP_IMM (R467). -/
def execRscImm (c : Cond) (f : Bool) (rn rd : RegNum) (rot : BitVec 4) (imm : BitVec 8) (s : State) : Result :=
  dataProcessing .rsc c f rn rd (.imm rot imm) s

/-- RSC, DP_REG_IMMSHIFT (R467). -/
def execRscShiftImm (c : Cond) (f : Bool) (rn rd : RegNum) (amt : BitVec 5) (sh : ShiftKind) (rm : RegNum) (s : State) : Result :=
  dataProcessing .rsc c f rn rd (.shiftImm amt sh rm) s

/-- RSC, DP_REG_REGSHIFT (R467). -/
def execRscShiftReg (c : Cond) (f : Bool) (rn rd rs : RegNum) (sh : ShiftKind) (rm : RegNum) (s : State) : Result :=
  dataProcessing .rsc c f rn rd (.shiftReg rs sh rm) s

/-- TST, DP_IMM (R468). -/
def execTstImm (c : Cond) (rn rd : RegNum) (rot : BitVec 4) (imm : BitVec 8) (s : State) : Result :=
  dataProcessing .tst c true rn rd (.imm rot imm) s

/-- TST, DP_REG_IMMSHIFT (R468). -/
def execTstShiftImm (c : Cond) (rn rd : RegNum) (amt : BitVec 5) (sh : ShiftKind) (rm : RegNum) (s : State) : Result :=
  dataProcessing .tst c true rn rd (.shiftImm amt sh rm) s

/-- TST, DP_REG_REGSHIFT (R468). -/
def execTstShiftReg (c : Cond) (rn rd rs : RegNum) (sh : ShiftKind) (rm : RegNum) (s : State) : Result :=
  dataProcessing .tst c true rn rd (.shiftReg rs sh rm) s

/-- TEQ, DP_IMM (R469). -/
def execTeqImm (c : Cond) (rn rd : RegNum) (rot : BitVec 4) (imm : BitVec 8) (s : State) : Result :=
  dataProcessing .teq c true rn rd (.imm rot imm) s

/-- TEQ, DP_REG_IMMSHIFT (R469). -/
def execTeqShiftImm (c : Cond) (rn rd : RegNum) (amt : BitVec 5) (sh : ShiftKind) (rm : RegNum) (s : State) : Result :=
  dataProcessing .teq c true rn rd (.shiftImm amt sh rm) s

/-- TEQ, DP_REG_REGSHIFT (R469). -/
def execTeqShiftReg (c : Cond) (rn rd rs : RegNum) (sh : ShiftKind) (rm : RegNum) (s : State) : Result :=
  dataProcessing .teq c true rn rd (.shiftReg rs sh rm) s

/-- CMP, DP_IMM (R470). -/
def execCmpImm (c : Cond) (rn rd : RegNum) (rot : BitVec 4) (imm : BitVec 8) (s : State) : Result :=
  dataProcessing .cmp c true rn rd (.imm rot imm) s

/-- CMP, DP_REG_IMMSHIFT (R470). -/
def execCmpShiftImm (c : Cond) (rn rd : RegNum) (amt : BitVec 5) (sh : ShiftKind) (rm : RegNum) (s : State) : Result :=
  dataProcessing .cmp c true rn rd (.shiftImm amt sh rm) s

/-- CMP, DP_REG_REGSHIFT (R470). -/
def execCmpShiftReg (c : Cond) (rn rd rs : RegNum) (sh : ShiftKind) (rm : RegNum) (s : State) : Result :=
  dataProcessing .cmp c true rn rd (.shiftReg rs sh rm) s

/-- CMN, DP_IMM (R471). -/
def execCmnImm (c : Cond) (rn rd : RegNum) (rot : BitVec 4) (imm : BitVec 8) (s : State) : Result :=
  dataProcessing .cmn c true rn rd (.imm rot imm) s

/-- CMN, DP_REG_IMMSHIFT (R471). -/
def execCmnShiftImm (c : Cond) (rn rd : RegNum) (amt : BitVec 5) (sh : ShiftKind) (rm : RegNum) (s : State) : Result :=
  dataProcessing .cmn c true rn rd (.shiftImm amt sh rm) s

/-- CMN, DP_REG_REGSHIFT (R471). -/
def execCmnShiftReg (c : Cond) (rn rd rs : RegNum) (sh : ShiftKind) (rm : RegNum) (s : State) : Result :=
  dataProcessing .cmn c true rn rd (.shiftReg rs sh rm) s

/-- ORR, DP_IMM (R472). -/
def execOrrImm (c : Cond) (f : Bool) (rn rd : RegNum) (rot : BitVec 4) (imm : BitVec 8) (s : State) : Result :=
  dataProcessing .orr c f rn rd (.imm rot imm) s

/-- ORR, DP_REG_IMMSHIFT (R472). -/
def execOrrShiftImm (c : Cond) (f : Bool) (rn rd : RegNum) (amt : BitVec 5) (sh : ShiftKind) (rm : RegNum) (s : State) : Result :=
  dataProcessing .orr c f rn rd (.shiftImm amt sh rm) s

/-- ORR, DP_REG_REGSHIFT (R472). -/
def execOrrShiftReg (c : Cond) (f : Bool) (rn rd rs : RegNum) (sh : ShiftKind) (rm : RegNum) (s : State) : Result :=
  dataProcessing .orr c f rn rd (.shiftReg rs sh rm) s

/-- MOV, DP_IMM (R473). -/
def execMovImm (c : Cond) (f : Bool) (rn rd : RegNum) (rot : BitVec 4) (imm : BitVec 8) (s : State) : Result :=
  dataProcessing .mov c f rn rd (.imm rot imm) s

/-- MOV, DP_REG_IMMSHIFT (R473). -/
def execMovShiftImm (c : Cond) (f : Bool) (rn rd : RegNum) (amt : BitVec 5) (sh : ShiftKind) (rm : RegNum) (s : State) : Result :=
  dataProcessing .mov c f rn rd (.shiftImm amt sh rm) s

/-- MOV, DP_REG_REGSHIFT (R473). -/
def execMovShiftReg (c : Cond) (f : Bool) (rn rd rs : RegNum) (sh : ShiftKind) (rm : RegNum) (s : State) : Result :=
  dataProcessing .mov c f rn rd (.shiftReg rs sh rm) s

/-- BIC, DP_IMM (R474). -/
def execBicImm (c : Cond) (f : Bool) (rn rd : RegNum) (rot : BitVec 4) (imm : BitVec 8) (s : State) : Result :=
  dataProcessing .bic c f rn rd (.imm rot imm) s

/-- BIC, DP_REG_IMMSHIFT (R474). -/
def execBicShiftImm (c : Cond) (f : Bool) (rn rd : RegNum) (amt : BitVec 5) (sh : ShiftKind) (rm : RegNum) (s : State) : Result :=
  dataProcessing .bic c f rn rd (.shiftImm amt sh rm) s

/-- BIC, DP_REG_REGSHIFT (R474). -/
def execBicShiftReg (c : Cond) (f : Bool) (rn rd rs : RegNum) (sh : ShiftKind) (rm : RegNum) (s : State) : Result :=
  dataProcessing .bic c f rn rd (.shiftReg rs sh rm) s

/-- MVN, DP_IMM (R475). -/
def execMvnImm (c : Cond) (f : Bool) (rn rd : RegNum) (rot : BitVec 4) (imm : BitVec 8) (s : State) : Result :=
  dataProcessing .mvn c f rn rd (.imm rot imm) s

/-- MVN, DP_REG_IMMSHIFT (R475). -/
def execMvnShiftImm (c : Cond) (f : Bool) (rn rd : RegNum) (amt : BitVec 5) (sh : ShiftKind) (rm : RegNum) (s : State) : Result :=
  dataProcessing .mvn c f rn rd (.shiftImm amt sh rm) s

/-- MVN, DP_REG_REGSHIFT (R475). -/
def execMvnShiftReg (c : Cond) (f : Bool) (rn rd rs : RegNum) (sh : ShiftKind) (rm : RegNum) (s : State) : Result :=
  dataProcessing .mvn c f rn rd (.shiftReg rs sh rm) s

end Sys2Proof.Machine
end

