-- ==== Sys2Proof/Machine/ArmLoadStore.lean ====
section
/-! DEFINITION. The ARM single transfers and the swaps (44_arm_load_store.md). -/

namespace Sys2Proof.Machine

/-- The registers a transfer reads or writes. -/
def transferRegs (rn rd : RegNum) (o : Offset) : List RegNum := [rn, rd] ++ o.reg?.toList

/-- The write-back cases common to modes 2 and 3 (R601, R611(a), (b), (d), R625(a), (b), (d)). -/
def transferChecks (t : Transfer) (x : Indexing) (rn rd : RegNum) (o : Offset) (s : State) : Except Fault Unit := do
  checkNever (rn = 15#4 && x.writesBack) .wbPc s
  checkAlt (o.reg? = some 15#4) .offsetRmPc s
  checkAlt (rd = rn && x.writesBack) (if t.isLoad then .loadWbRdEqRn else .storeWbRdEqRn) s

/-- Mode 2's cases: the common ones and its own (R605, R611(c), (e), (f)). -/
def mode2Checks (t : Transfer) (x : Indexing) (rn rd : RegNum) (o : Offset) (s : State) : Except Fault Unit := do
  transferChecks t x rn rd o s
  checkAlt (o.reg? = some rn && x.writesBack) .wbRmEqRn s
  checkNever (t = .ldrb && rd = 15#4) .loadBytePc s
  checkAlt (t = .strb && rd = 15#4) .storePcNarrow s

/-- Mode 3's cases: the common ones and its own (R605, R625(c)). -/
def mode3Checks (t : Transfer) (x : Indexing) (rn rd : RegNum) (o : Offset) (s : State) : Except Fault Unit := do
  transferChecks t x rn rd o s
  checkNever (t.isLoad && rd = 15#4) .loadHalfPc s
  checkAlt (t = .strh && rd = 15#4) .storePcNarrow s

/-- The base written back, where the variant writes it back (R601). -/
def writeBackBase (x : Indexing) (rn : RegNum) (moved : Word) (s : State) : State :=
  if x.writesBack then s.setX rn moved else s

/-- The loaded value into Rd; into R15 it is a branch in ARM state (R601, R612). -/
def finishLoad (rd : RegNum) (data : Word) (s : State) : Except Fault State :=
  if rd = 15#4 then branchArm data s else .ok ((s.setX rd data).advance 4)

/-- The access, then the write-back, then a load's destination (R601). A store of R15 writes A + 12 (R605). -/
def transferBody (t : Transfer) (x : Indexing) (rn rd : RegNum) (o : Offset) (s : State) : Except Fault State := do
  let base := s.x 8 rn
  let off := o.eval s
  let addr := x.address base off
  let moved := x.moved base off
  if t.isLoad then
    let r ← loadValue t addr s
    finishLoad rd r.1 (writeBackBase x rn moved r.2)
  else
    let s' ← storeValue t addr (s.x 12 rd) s
    return (writeBackBase x rn moved s').advance 4

/-- A word or byte transfer, addressing mode 2 (R600 to R612). -/
def transfer2 (t : Transfer) (c : Cond) (x : Indexing) (rn rd : RegNum) (o : Offset) (s : State) : Result :=
  runArm c (transferRegs rn rd o) (mode2Checks t x rn rd o) (transferBody t x rn rd o) s

/-- A halfword or signed transfer, addressing mode 3 (R620 to R625). -/
def transfer3 (t : Transfer) (c : Cond) (x : Indexing) (rn rd : RegNum) (o : Offset) (s : State) : Result :=
  runArm c (transferRegs rn rd o) (mode3Checks t x rn rd o) (transferBody t x rn rd o) s

/-- A T form (R607 to R610): post-indexed with write-back; the User-mode mark changes nothing (R235). -/
def transferT (t : Transfer) (c : Cond) (u : Bool) (rn rd : RegNum) (o : Offset) (s : State) : Result :=
  transfer2 t c ⟨false, u, true⟩ rn rd o s

/-- The register choices of SWP and SWPB (R632). -/
def swapChecks (rn rd rm : RegNum) (s : State) : Except Fault Unit := do
  checkNever (rn = 15#4 || rd = 15#4 || rm = 15#4) .swpPc s
  checkAlt (rn = rd || rn = rm) .swpBaseOverlap s

/-- SWP and SWPB (R630 to R632): the read, then the write, then Rd, indivisible. -/
def swap (load store : Transfer) (c : Cond) (rn rd rm : RegNum) (s : State) : Result :=
  runArm c [rn, rd, rm] (swapChecks rn rd rm) (fun s => do
    let addr := s.x 8 rn
    let v := s.x 8 rm
    let r ← loadValue load addr s
    let s' ← storeValue store addr v r.2
    return (s'.setX rd r.1).advance 4) s

/-! ### The meanings, one per row of the opcode table -/

/-- SWP, SWP (R630). -/
def execSwp (c : Cond) (rn rd rm : RegNum) (s : State) : Result :=
  swap .ldr .str c rn rd rm s

/-- SWPB, SWP (R631). -/
def execSwpb (c : Cond) (rn rd rm : RegNum) (s : State) : Result :=
  swap .ldrb .strb c rn rd rm s

/-- STRH, HALF_PRE (R624). -/
def execStrhPre (c : Cond) (u im w : Bool) (rn rd : RegNum) (hi lo : BitVec 4) (s : State) : Result :=
  transfer3 .strh c ⟨true, u, w⟩ rn rd (halfOffset im hi lo) s

/-- STRH, HALF_POST (R624). -/
def execStrhPost (c : Cond) (u im : Bool) (rn rd : RegNum) (hi lo : BitVec 4) (s : State) : Result :=
  transfer3 .strh c ⟨false, u, false⟩ rn rd (halfOffset im hi lo) s

/-- LDRH, HALF_PRE (R621). -/
def execLdrhPre (c : Cond) (u im w : Bool) (rn rd : RegNum) (hi lo : BitVec 4) (s : State) : Result :=
  transfer3 .ldrh c ⟨true, u, w⟩ rn rd (halfOffset im hi lo) s

/-- LDRH, HALF_POST (R621). -/
def execLdrhPost (c : Cond) (u im : Bool) (rn rd : RegNum) (hi lo : BitVec 4) (s : State) : Result :=
  transfer3 .ldrh c ⟨false, u, false⟩ rn rd (halfOffset im hi lo) s

/-- LDRSB, HALF_PRE (R622). -/
def execLdrsbPre (c : Cond) (u im w : Bool) (rn rd : RegNum) (hi lo : BitVec 4) (s : State) : Result :=
  transfer3 .ldrsb c ⟨true, u, w⟩ rn rd (halfOffset im hi lo) s

/-- LDRSB, HALF_POST (R622). -/
def execLdrsbPost (c : Cond) (u im : Bool) (rn rd : RegNum) (hi lo : BitVec 4) (s : State) : Result :=
  transfer3 .ldrsb c ⟨false, u, false⟩ rn rd (halfOffset im hi lo) s

/-- LDRSH, HALF_PRE (R623). -/
def execLdrshPre (c : Cond) (u im w : Bool) (rn rd : RegNum) (hi lo : BitVec 4) (s : State) : Result :=
  transfer3 .ldrsh c ⟨true, u, w⟩ rn rd (halfOffset im hi lo) s

/-- LDRSH, HALF_POST (R623). -/
def execLdrshPost (c : Cond) (u im : Bool) (rn rd : RegNum) (hi lo : BitVec 4) (s : State) : Result :=
  transfer3 .ldrsh c ⟨false, u, false⟩ rn rd (halfOffset im hi lo) s

/-- STR, SDT_IMM_PRE (R604). -/
def execStrImmPre (c : Cond) (u w : Bool) (rn rd : RegNum) (off : BitVec 12) (s : State) : Result :=
  transfer2 .str c ⟨true, u, w⟩ rn rd (.imm (off.setWidth 32)) s

/-- STR, SDT_IMM_POST (R604). -/
def execStrImmPost (c : Cond) (u : Bool) (rn rd : RegNum) (off : BitVec 12) (s : State) : Result :=
  transfer2 .str c ⟨false, u, false⟩ rn rd (.imm (off.setWidth 32)) s

/-- STRT, SDT_IMM_POST_T (R609). -/
def execStrtImm (c : Cond) (u : Bool) (rn rd : RegNum) (off : BitVec 12) (s : State) : Result :=
  transferT .str c u rn rd (.imm (off.setWidth 32)) s

/-- STR, SDT_REG_PRE (R604). -/
def execStrRegPre (c : Cond) (u w : Bool) (rn rd : RegNum) (amt : BitVec 5) (sh : ShiftKind) (rm : RegNum) (s : State) : Result :=
  transfer2 .str c ⟨true, u, w⟩ rn rd (.shifted amt sh rm) s

/-- STR, SDT_REG_POST (R604). -/
def execStrRegPost (c : Cond) (u : Bool) (rn rd : RegNum) (amt : BitVec 5) (sh : ShiftKind) (rm : RegNum) (s : State) : Result :=
  transfer2 .str c ⟨false, u, false⟩ rn rd (.shifted amt sh rm) s

/-- STRT, SDT_REG_POST_T (R609). -/
def execStrtReg (c : Cond) (u : Bool) (rn rd : RegNum) (amt : BitVec 5) (sh : ShiftKind) (rm : RegNum) (s : State) : Result :=
  transferT .str c u rn rd (.shifted amt sh rm) s

/-- LDR, SDT_IMM_PRE (R602). -/
def execLdrImmPre (c : Cond) (u w : Bool) (rn rd : RegNum) (off : BitVec 12) (s : State) : Result :=
  transfer2 .ldr c ⟨true, u, w⟩ rn rd (.imm (off.setWidth 32)) s

/-- LDR, SDT_IMM_POST (R602). -/
def execLdrImmPost (c : Cond) (u : Bool) (rn rd : RegNum) (off : BitVec 12) (s : State) : Result :=
  transfer2 .ldr c ⟨false, u, false⟩ rn rd (.imm (off.setWidth 32)) s

/-- LDRT, SDT_IMM_POST_T (R607). -/
def execLdrtImm (c : Cond) (u : Bool) (rn rd : RegNum) (off : BitVec 12) (s : State) : Result :=
  transferT .ldr c u rn rd (.imm (off.setWidth 32)) s

/-- LDR, SDT_REG_PRE (R602). -/
def execLdrRegPre (c : Cond) (u w : Bool) (rn rd : RegNum) (amt : BitVec 5) (sh : ShiftKind) (rm : RegNum) (s : State) : Result :=
  transfer2 .ldr c ⟨true, u, w⟩ rn rd (.shifted amt sh rm) s

/-- LDR, SDT_REG_POST (R602). -/
def execLdrRegPost (c : Cond) (u : Bool) (rn rd : RegNum) (amt : BitVec 5) (sh : ShiftKind) (rm : RegNum) (s : State) : Result :=
  transfer2 .ldr c ⟨false, u, false⟩ rn rd (.shifted amt sh rm) s

/-- LDRT, SDT_REG_POST_T (R607). -/
def execLdrtReg (c : Cond) (u : Bool) (rn rd : RegNum) (amt : BitVec 5) (sh : ShiftKind) (rm : RegNum) (s : State) : Result :=
  transferT .ldr c u rn rd (.shifted amt sh rm) s

/-- STRB, SDT_IMM_PRE (R606). -/
def execStrbImmPre (c : Cond) (u w : Bool) (rn rd : RegNum) (off : BitVec 12) (s : State) : Result :=
  transfer2 .strb c ⟨true, u, w⟩ rn rd (.imm (off.setWidth 32)) s

/-- STRB, SDT_IMM_POST (R606). -/
def execStrbImmPost (c : Cond) (u : Bool) (rn rd : RegNum) (off : BitVec 12) (s : State) : Result :=
  transfer2 .strb c ⟨false, u, false⟩ rn rd (.imm (off.setWidth 32)) s

/-- STRBT, SDT_IMM_POST_T (R610). -/
def execStrbtImm (c : Cond) (u : Bool) (rn rd : RegNum) (off : BitVec 12) (s : State) : Result :=
  transferT .strb c u rn rd (.imm (off.setWidth 32)) s

/-- STRB, SDT_REG_PRE (R606). -/
def execStrbRegPre (c : Cond) (u w : Bool) (rn rd : RegNum) (amt : BitVec 5) (sh : ShiftKind) (rm : RegNum) (s : State) : Result :=
  transfer2 .strb c ⟨true, u, w⟩ rn rd (.shifted amt sh rm) s

/-- STRB, SDT_REG_POST (R606). -/
def execStrbRegPost (c : Cond) (u : Bool) (rn rd : RegNum) (amt : BitVec 5) (sh : ShiftKind) (rm : RegNum) (s : State) : Result :=
  transfer2 .strb c ⟨false, u, false⟩ rn rd (.shifted amt sh rm) s

/-- STRBT, SDT_REG_POST_T (R610). -/
def execStrbtReg (c : Cond) (u : Bool) (rn rd : RegNum) (amt : BitVec 5) (sh : ShiftKind) (rm : RegNum) (s : State) : Result :=
  transferT .strb c u rn rd (.shifted amt sh rm) s

/-- LDRB, SDT_IMM_PRE (R603). -/
def execLdrbImmPre (c : Cond) (u w : Bool) (rn rd : RegNum) (off : BitVec 12) (s : State) : Result :=
  transfer2 .ldrb c ⟨true, u, w⟩ rn rd (.imm (off.setWidth 32)) s

/-- LDRB, SDT_IMM_POST (R603). -/
def execLdrbImmPost (c : Cond) (u : Bool) (rn rd : RegNum) (off : BitVec 12) (s : State) : Result :=
  transfer2 .ldrb c ⟨false, u, false⟩ rn rd (.imm (off.setWidth 32)) s

/-- LDRBT, SDT_IMM_POST_T (R608). -/
def execLdrbtImm (c : Cond) (u : Bool) (rn rd : RegNum) (off : BitVec 12) (s : State) : Result :=
  transferT .ldrb c u rn rd (.imm (off.setWidth 32)) s

/-- LDRB, SDT_REG_PRE (R603). -/
def execLdrbRegPre (c : Cond) (u w : Bool) (rn rd : RegNum) (amt : BitVec 5) (sh : ShiftKind) (rm : RegNum) (s : State) : Result :=
  transfer2 .ldrb c ⟨true, u, w⟩ rn rd (.shifted amt sh rm) s

/-- LDRB, SDT_REG_POST (R603). -/
def execLdrbRegPost (c : Cond) (u : Bool) (rn rd : RegNum) (amt : BitVec 5) (sh : ShiftKind) (rm : RegNum) (s : State) : Result :=
  transfer2 .ldrb c ⟨false, u, false⟩ rn rd (.shifted amt sh rm) s

/-- LDRBT, SDT_REG_POST_T (R608). -/
def execLdrbtReg (c : Cond) (u : Bool) (rn rd : RegNum) (amt : BitVec 5) (sh : ShiftKind) (rm : RegNum) (s : State) : Result :=
  transferT .ldrb c u rn rd (.shifted amt sh rm) s

end Sys2Proof.Machine
end

