-- ==== Sys2Proof/Machine/ArmMultiply.lean ====
section
/-! DEFINITION. The ARM multiplies (42_arm_multiply.md): exact integer products, reduced to the result width (R504). C (and V
of the long forms) after S = 1 is a draw (R501, R510; log 5). -/

namespace Sys2Proof.Machine

/-- N, Z of the result and a drawn C (R501). -/
def mulFlags (r : Word) (s : State) : State :=
  let d := draw s
  { d.2 with cpsr := { s.cpsr.setNZ r with c := d.1.getLsbD 0 } }

/-- N, Z of the 64-bit result and drawn C and V (R510). -/
def longFlags (r : BitVec 64) (s : State) : State :=
  let d := draw s
  let e := draw d.2
  { e.2 with cpsr := { s.cpsr with n := r.msb, z := decide (r = 0#64), c := d.1.getLsbD 0, v := e.1.getLsbD 0 } }

/-- The register choices of MUL and MLA (R503). -/
def mulChecks (rd : RegNum) (acc : Option RegNum) (rs rm : RegNum) (s : State) : Except Fault Unit := do
  checkAlt (rd = rm) .mulRdEqRm s
  checkNever (rd = 15#4 || rs = 15#4 || rm = 15#4 || acc = some 15#4) .mulPc s

/-- MUL and MLA (R500 to R503): `acc` is the accumulated register, if any. -/
def multiply (c : Cond) (f : Bool) (rd : RegNum) (acc : Option RegNum) (rs rm : RegNum) (s : State) : Result :=
  runArm c ([rd, rs, rm] ++ acc.toList) (mulChecks rd acc rs rm) (fun s =>
    let a := match acc with | some rn => (s.x 8 rn).toNat | none => 0
    let r := BitVec.ofNat 32 ((s.x 8 rm).toNat * (s.x 8 rs).toNat + a)
    let s' := if f then mulFlags r s else s
    .ok ((s'.setX rd r).advance 4)) s

/-- The exact product plus the accumulator, modulo 2^64 (R511 to R514). -/
def longProduct (signed acc : Bool) (m r hi lo : Word) : BitVec 64 :=
  let p : Int := if signed then m.toInt * r.toInt else (m.toNat : Int) * (r.toNat : Int)
  BitVec.ofInt 64 (p + if acc then ((hi.toNat * 2 ^ 32 + lo.toNat : Nat) : Int) else 0)

/-- The register choices of the long multiplies (R515). -/
def longChecks (rdHi rdLo rs rm : RegNum) (s : State) : Except Fault Unit := do
  checkNever (rdHi = rdLo) .mullRdHiEqRdLo s
  checkAlt (rdHi = rm || rdLo = rm) .mullRdEqRm s
  checkNever (rdHi = 15#4 || rdLo = 15#4 || rs = 15#4 || rm = 15#4) .mullPc s

/-- The long multiplies (R510 to R515). -/
def longMultiply (signed acc : Bool) (c : Cond) (f : Bool) (rdHi rdLo rs rm : RegNum) (s : State) : Result :=
  runArm c [rdHi, rdLo, rs, rm] (longChecks rdHi rdLo rs rm) (fun s =>
    let r := longProduct signed acc (s.x 8 rm) (s.x 8 rs) (s.x 8 rdHi) (s.x 8 rdLo)
    let s' := if f then longFlags r s else s
    .ok (((s'.setX rdLo (r.extractLsb' 0 32)).setX rdHi (r.extractLsb' 32 32)).advance 4)) s

/-! ### The meanings, one per row of the opcode table -/

/-- MUL, MUL (R500). -/
def execMul (c : Cond) (f : Bool) (rd _rn rs rm : RegNum) (s : State) : Result :=
  multiply c f rd none rs rm s

/-- MLA, MUL (R502). -/
def execMla (c : Cond) (f : Bool) (rd rn rs rm : RegNum) (s : State) : Result :=
  multiply c f rd (some rn) rs rm s

/-- UMULL, MULL (R511). -/
def execUmull (c : Cond) (f : Bool) (rdHi rdLo rs rm : RegNum) (s : State) : Result :=
  longMultiply false false c f rdHi rdLo rs rm s

/-- UMLAL, MULL (R512). -/
def execUmlal (c : Cond) (f : Bool) (rdHi rdLo rs rm : RegNum) (s : State) : Result :=
  longMultiply false true c f rdHi rdLo rs rm s

/-- SMULL, MULL (R513). -/
def execSmull (c : Cond) (f : Bool) (rdHi rdLo rs rm : RegNum) (s : State) : Result :=
  longMultiply true false c f rdHi rdLo rs rm s

/-- SMLAL, MULL (R514). -/
def execSmlal (c : Cond) (f : Bool) (rdHi rdLo rs rm : RegNum) (s : State) : Result :=
  longMultiply true true c f rdHi rdLo rs rm s

end Sys2Proof.Machine
end

