-- ==== Sys2Proof/Machine/ThumbAlu.lean ====
section
/-! DEFINITION. The Thumb data-processing instructions (46_thumb_alu.md): formats 1 to 5, 12 and 13. -/

namespace Sys2Proof.Machine

/-- A result into a low register with N, Z, C, V by its law (R700, R434). -/
def thumbSet (rd : LowReg) (out : AluOut) (s : State) : State :=
  ({ s with cpsr := s.cpsr.setAlu out }.setLo rd out.r).advance 2

/-- The flags alone (CMP, CMN). -/
def thumbFlags (out : AluOut) (s : State) : State := { s with cpsr := s.cpsr.setAlu out }.advance 2

/-- A logical result: N and Z, C and V unchanged (R434). -/
def thumbLogic (r : Word) (s : State) : AluOut := logicLaw r s.cpsr.c

/-- A shift's result: N, Z and the shifter carry, V unchanged (R434). -/
def thumbShift (x : Shifted) : AluOut := logicLaw x.1 x.2

/-- An instruction that computes a value for a low register from the state (R700). -/
def thumbCompute (rd : LowReg) (f : State → AluOut) (s : State) : Result :=
  runThumb (fun s => .ok (thumbSet rd (f s) s)) s

/-- A comparison (R700). -/
def thumbCompare (f : State → AluOut) (s : State) : Result := runThumb (fun s => .ok (thumbFlags (f s) s)) s

/-- A value without flags into a low register (formats 12; R740, R741). -/
def thumbAddress (rd : LowReg) (f : State → Word) (s : State) : Result :=
  runThumb (fun s => .ok ((s.setLo rd (f s)).advance 2)) s

/-- A result of format 5 (R730, R732): R15 is a branch that keeps Thumb state. -/
def thumbHiWrite (d : RegNum) (r : Word) (s : State) : State :=
  if d = 15#4 then branchThumb r s else (s.setX d r).advance 2

/-- Format 5 with both registers low (R733). -/
def bothLow (m d : RegNum) : Bool := decide (m.toNat < 8) && decide (d.toNat < 8)

/-- ADD and MOV of format 5 (R730, R732, R733). -/
def thumbHi (m d : RegNum) (f : State → Word) (s : State) : Result :=
  runThumb (fun s => do
    checkAlt (bothLow m d) .thumbHiOpBothLow s
    return thumbHiWrite d (f s) s) s

/-- CMP of format 5 (R731, R733). -/
def thumbHiCompare (m d : RegNum) (s : State) : Result :=
  runThumb (fun s => do
    checkAlt (bothLow m d) .thumbHiOpBothLow s
    checkAlt (m = 15#4 || d = 15#4) .thumbCmpPc s
    return thumbFlags (subLaw (s.x 4 d) (s.x 4 m) false) s) s

/-- MUL of format 4 (R725). -/
def thumbMultiply (rs rd : LowReg) (s : State) : Result :=
  runThumb (fun s => do
    checkAlt (rd = rs) .mulRdEqRm s
    let r := BitVec.ofNat 32 ((s.lo rd).toNat * (s.lo rs).toNat)
    return ((mulFlags r s).setLo rd r).advance 2) s

/-- The PC value formats 6 and 12 use: bit 1 cleared (R740, R750). -/
def pcAligned (s : State) : Word := alignWord (s.pc + 4)

/-- A word offset of eight bits (R341). -/
def wordOffset (imm : BitVec 8) : Word := imm.setWidth 32 <<< 2

/-! ### The meanings, one per row of the opcode table -/

/-- Thumb LSL, T1 (R701). -/
def execTLslImm (off : BitVec 5) (rs rd : LowReg) (s : State) : Result :=
  thumbCompute rd (fun s => thumbShift (shiftByImm .lsl off (s.lo rs) s.cpsr.c)) s

/-- Thumb LSR, T1 (R702). -/
def execTLsrImm (off : BitVec 5) (rs rd : LowReg) (s : State) : Result :=
  thumbCompute rd (fun s => thumbShift (shiftByImm .lsr off (s.lo rs) s.cpsr.c)) s

/-- Thumb ASR, T1 (R703). -/
def execTAsrImm (off : BitVec 5) (rs rd : LowReg) (s : State) : Result :=
  thumbCompute rd (fun s => thumbShift (shiftByImm .asr off (s.lo rs) s.cpsr.c)) s

/-- Thumb ADD, T2_REG (R704). -/
def execTAddReg (rn rs rd : LowReg) (s : State) : Result :=
  thumbCompute rd (fun s => addLaw (s.lo rs) (s.lo rn) false) s

/-- Thumb SUB, T2_REG (R705). -/
def execTSubReg (rn rs rd : LowReg) (s : State) : Result :=
  thumbCompute rd (fun s => subLaw (s.lo rs) (s.lo rn) false) s

/-- Thumb ADD, T2_IMM (R706). -/
def execTAddImm3 (imm : BitVec 3) (rs rd : LowReg) (s : State) : Result :=
  thumbCompute rd (fun s => addLaw (s.lo rs) (imm.setWidth 32) false) s

/-- Thumb SUB, T2_IMM (R707). -/
def execTSubImm3 (imm : BitVec 3) (rs rd : LowReg) (s : State) : Result :=
  thumbCompute rd (fun s => subLaw (s.lo rs) (imm.setWidth 32) false) s

/-- Thumb MOV, T3 (R708). -/
def execTMovImm8 (rd : LowReg) (imm : BitVec 8) (s : State) : Result :=
  thumbCompute rd (fun s => thumbLogic (imm.setWidth 32) s) s

/-- Thumb CMP, T3 (R709). -/
def execTCmpImm8 (rd : LowReg) (imm : BitVec 8) (s : State) : Result :=
  thumbCompare (fun s => subLaw (s.lo rd) (imm.setWidth 32) false) s

/-- Thumb ADD, T3 (R710). -/
def execTAddImm8 (rd : LowReg) (imm : BitVec 8) (s : State) : Result :=
  thumbCompute rd (fun s => addLaw (s.lo rd) (imm.setWidth 32) false) s

/-- Thumb SUB, T3 (R711). -/
def execTSubImm8 (rd : LowReg) (imm : BitVec 8) (s : State) : Result :=
  thumbCompute rd (fun s => subLaw (s.lo rd) (imm.setWidth 32) false) s

/-- Thumb AND, T4 (R712). -/
def execTAnd (rs rd : LowReg) (s : State) : Result :=
  thumbCompute rd (fun s => thumbLogic (s.lo rd &&& s.lo rs) s) s

/-- Thumb EOR, T4 (R713). -/
def execTEor (rs rd : LowReg) (s : State) : Result :=
  thumbCompute rd (fun s => thumbLogic (s.lo rd ^^^ s.lo rs) s) s

/-- Thumb LSL, T4 (R714). -/
def execTLslReg (rs rd : LowReg) (s : State) : Result :=
  thumbCompute rd (fun s => thumbShift (shiftByReg .lsl (shiftAmount (s.lo rs)) (s.lo rd) s.cpsr.c)) s

/-- Thumb LSR, T4 (R715). -/
def execTLsrReg (rs rd : LowReg) (s : State) : Result :=
  thumbCompute rd (fun s => thumbShift (shiftByReg .lsr (shiftAmount (s.lo rs)) (s.lo rd) s.cpsr.c)) s

/-- Thumb ASR, T4 (R716). -/
def execTAsrReg (rs rd : LowReg) (s : State) : Result :=
  thumbCompute rd (fun s => thumbShift (shiftByReg .asr (shiftAmount (s.lo rs)) (s.lo rd) s.cpsr.c)) s

/-- Thumb ADC, T4 (R717). -/
def execTAdc (rs rd : LowReg) (s : State) : Result :=
  thumbCompute rd (fun s => addLaw (s.lo rd) (s.lo rs) s.cpsr.c) s

/-- Thumb SBC, T4 (R718). -/
def execTSbc (rs rd : LowReg) (s : State) : Result :=
  thumbCompute rd (fun s => subLaw (s.lo rd) (s.lo rs) (!s.cpsr.c)) s

/-- Thumb ROR, T4 (R719). -/
def execTRorReg (rs rd : LowReg) (s : State) : Result :=
  thumbCompute rd (fun s => thumbShift (shiftByReg .ror (shiftAmount (s.lo rs)) (s.lo rd) s.cpsr.c)) s

/-- Thumb TST, T4 (R720). -/
def execTTst (rs rd : LowReg) (s : State) : Result :=
  thumbCompare (fun s => thumbLogic (s.lo rd &&& s.lo rs) s) s

/-- Thumb NEG, T4 (R721). -/
def execTNeg (rs rd : LowReg) (s : State) : Result :=
  thumbCompute rd (fun s => subLaw 0#32 (s.lo rs) false) s

/-- Thumb CMP, T4 (R722). -/
def execTCmpReg (rs rd : LowReg) (s : State) : Result :=
  thumbCompare (fun s => subLaw (s.lo rd) (s.lo rs) false) s

/-- Thumb CMN, T4 (R723). -/
def execTCmn (rs rd : LowReg) (s : State) : Result :=
  thumbCompare (fun s => addLaw (s.lo rd) (s.lo rs) false) s

/-- Thumb ORR, T4 (R724). -/
def execTOrr (rs rd : LowReg) (s : State) : Result :=
  thumbCompute rd (fun s => thumbLogic (s.lo rd ||| s.lo rs) s) s

/-- Thumb MUL, T4 (R725). -/
def execTMul (rs rd : LowReg) (s : State) : Result :=
  thumbMultiply rs rd s

/-- Thumb BIC, T4 (R726). -/
def execTBic (rs rd : LowReg) (s : State) : Result :=
  thumbCompute rd (fun s => thumbLogic (s.lo rd &&& ~~~s.lo rs) s) s

/-- Thumb MVN, T4 (R727). -/
def execTMvn (rs rd : LowReg) (s : State) : Result :=
  thumbCompute rd (fun s => thumbLogic (~~~s.lo rs) s) s

/-- Thumb ADD, T5 (R730). -/
def execTAddHi (m d : RegNum) (s : State) : Result :=
  thumbHi m d (fun s => s.x 4 d + s.x 4 m) s

/-- Thumb CMP, T5 (R731). -/
def execTCmpHi (m d : RegNum) (s : State) : Result :=
  thumbHiCompare m d s

/-- Thumb MOV, T5 (R732). -/
def execTMovHi (m d : RegNum) (s : State) : Result :=
  thumbHi m d (fun s => s.x 4 m) s

/-- Thumb BX, T5 (R735). -/
def execTBx (m : RegNum) (_sbz : BitVec 3) (s : State) : Result :=
  runThumb (fun s => exchange (s.x 4 m) s) s

/-- Thumb ADD, T12_PC (R740). -/
def execTAddPc (rd : LowReg) (imm : BitVec 8) (s : State) : Result :=
  thumbAddress rd (fun s => pcAligned s + wordOffset imm) s

/-- Thumb ADD, T12_SP (R741). -/
def execTAddSp (rd : LowReg) (imm : BitVec 8) (s : State) : Result :=
  thumbAddress rd (fun s => s.x 4 13#4 + wordOffset imm) s

/-- Thumb ADD, T13 (R742). -/
def execTAdjustSp (sub : Bool) (imm : BitVec 7) (s : State) : Result :=
  runThumb (fun s =>
    let off := imm.setWidth 32 <<< 2
    .ok ((s.setX 13#4 (if sub then s.x 4 13#4 - off else s.x 4 13#4 + off)).advance 2)) s

end Sys2Proof.Machine
end

