-- ==== Sys2Proof/Machine/ThumbMemory.lean ====
section
/-! DEFINITION. The Thumb loads, stores and block transfers (47_thumb_mem_branch.md): formats 6 to 11, 14 and 15. -/

namespace Sys2Proof.Machine

/-- A load into a low register from the address `f` computes (R753 to R767). -/
def thumbLoad (t : Transfer) (rd : LowReg) (f : State → Word) (s : State) : Result :=
  runThumb (fun s => do
    let r ← loadValue t (f s) s
    return (r.2.setLo rd r.1).advance 2) s

/-- A store of a low register to the address `f` computes (R751 to R766). -/
def thumbStore (t : Transfer) (rd : LowReg) (f : State → Word) (s : State) : Result :=
  runThumb (fun s => do
    let s' ← storeValue t (f s) (s.lo rd) s
    return s'.advance 2) s

/-- The address of formats 7 and 8 (R751 to R758). -/
def regAddress (ro rb : LowReg) (s : State) : Word := s.lo rb + s.lo ro

/-- The address of formats 9 and 10, the offset scaled by the width (R760 to R765). -/
def offAddress (scale : Nat) (off : BitVec 5) (rb : LowReg) (s : State) : Word :=
  s.lo rb + (off.setWidth 32 <<< scale)

/-- The address of format 11 (R766, R767). -/
def spAddress (imm : BitVec 8) (s : State) : Word := s.x 4 13#4 + wordOffset imm

/-- The registers PUSH stores and POP loads: the low list, and LR or PC at the highest address (R770, R771). -/
def stackRegs (r : Bool) (top : RegNum) (list : BitVec 8) : List RegNum := lowList list ++ if r then [top] else []

/-- PUSH (R770, R774(a)). -/
def push (r : Bool) (list : BitVec 8) (s : State) : Result :=
  runThumb (fun s => do
    checkNever (list = 0#8 && !r) .thumbEmptyRegList s
    let regs := stackRegs r 14#4 list
    let start := BlockMode.db.start (s.x 4 13#4) regs.length
    let s' ← storeWords start (regs.map (s.x 4)) s
    return (s'.setX 13#4 start).advance 2) s

/-- POP (R771, R774(a)): a popped PC keeps Thumb state. -/
def pop (r : Bool) (list : BitVec 8) (s : State) : Result :=
  runThumb (fun s => do
    checkNever (list = 0#8 && !r) .thumbEmptyRegList s
    let regs := stackRegs r 15#4 list
    let base := s.x 4 13#4
    let v ← loadWords base regs.length s
    let s' := (writeRegs s.cpsr.m (regs.zip v.1) v.2).setX 13#4 (BlockMode.ia.writeBack base regs.length)
    return if r then branchThumb (v.1.getLastD 0) s' else s'.advance 2) s

/-- STMIA (R772, R774): Rb lowest stores the original base, Rb in the list but not lowest is unpredictable. -/
def thumbStoreMultiple (rb : LowReg) (list : BitVec 8) (s : State) : Result :=
  runThumb (fun s => do
    checkNever (list = 0#8) .thumbEmptyRegList s
    let regs := lowList list
    let base := s.lo rb
    let wbval := BlockMode.ia.writeBack base regs.length
    let lowest := regs.head? == some rb.num
    checkAlt (list.getLsbD rb.toNat && !lowest) .stmWbBaseNotLowest s
    let s' ← storeWords base (regs.map (fun r => if r = rb.num && !lowest then wbval else s.x 4 r)) s
    return (s'.setLo rb wbval).advance 2) s

/-- LDMIA (R773, R774(b)): a base in the list keeps the loaded value. -/
def thumbLoadMultiple (rb : LowReg) (list : BitVec 8) (s : State) : Result :=
  runThumb (fun s => do
    checkNever (list = 0#8) .thumbEmptyRegList s
    let regs := lowList list
    let base := s.lo rb
    let v ← loadWords base regs.length s
    let s' := v.2.setLo rb (BlockMode.ia.writeBack base regs.length)
    return (writeRegs s.cpsr.m (regs.zip v.1) s').advance 2) s

/-! ### The meanings, one per row of the opcode table -/

/-- Thumb LDR, T6_PC (R750). -/
def execTLdrPc (rd : LowReg) (imm : BitVec 8) (s : State) : Result :=
  thumbLoad .ldr rd (fun s => pcAligned s + wordOffset imm) s

/-- Thumb STR, T7 (R751). -/
def execTStrReg (ro rb rd : LowReg) (s : State) : Result :=
  thumbStore .str rd (regAddress ro rb) s

/-- Thumb STRB, T7 (R752). -/
def execTStrbReg (ro rb rd : LowReg) (s : State) : Result :=
  thumbStore .strb rd (regAddress ro rb) s

/-- Thumb LDR, T7 (R753). -/
def execTLdrReg (ro rb rd : LowReg) (s : State) : Result :=
  thumbLoad .ldr rd (regAddress ro rb) s

/-- Thumb LDRB, T7 (R754). -/
def execTLdrbReg (ro rb rd : LowReg) (s : State) : Result :=
  thumbLoad .ldrb rd (regAddress ro rb) s

/-- Thumb STRH, T8 (R755). -/
def execTStrhReg (ro rb rd : LowReg) (s : State) : Result :=
  thumbStore .strh rd (regAddress ro rb) s

/-- Thumb LDSB, T8 (R756). -/
def execTLdsbReg (ro rb rd : LowReg) (s : State) : Result :=
  thumbLoad .ldrsb rd (regAddress ro rb) s

/-- Thumb LDRH, T8 (R757). -/
def execTLdrhReg (ro rb rd : LowReg) (s : State) : Result :=
  thumbLoad .ldrh rd (regAddress ro rb) s

/-- Thumb LDSH, T8 (R758). -/
def execTLdshReg (ro rb rd : LowReg) (s : State) : Result :=
  thumbLoad .ldrsh rd (regAddress ro rb) s

/-- Thumb STR, T9 (R760). -/
def execTStrOff (off : BitVec 5) (rb rd : LowReg) (s : State) : Result :=
  thumbStore .str rd (offAddress 2 off rb) s

/-- Thumb LDR, T9 (R761). -/
def execTLdrOff (off : BitVec 5) (rb rd : LowReg) (s : State) : Result :=
  thumbLoad .ldr rd (offAddress 2 off rb) s

/-- Thumb STRB, T9 (R762). -/
def execTStrbOff (off : BitVec 5) (rb rd : LowReg) (s : State) : Result :=
  thumbStore .strb rd (offAddress 0 off rb) s

/-- Thumb LDRB, T9 (R763). -/
def execTLdrbOff (off : BitVec 5) (rb rd : LowReg) (s : State) : Result :=
  thumbLoad .ldrb rd (offAddress 0 off rb) s

/-- Thumb STRH, T10 (R764). -/
def execTStrhOff (off : BitVec 5) (rb rd : LowReg) (s : State) : Result :=
  thumbStore .strh rd (offAddress 1 off rb) s

/-- Thumb LDRH, T10 (R765). -/
def execTLdrhOff (off : BitVec 5) (rb rd : LowReg) (s : State) : Result :=
  thumbLoad .ldrh rd (offAddress 1 off rb) s

/-- Thumb STR, T11_SP (R766). -/
def execTStrSp (rd : LowReg) (imm : BitVec 8) (s : State) : Result :=
  thumbStore .str rd (spAddress imm) s

/-- Thumb LDR, T11_SP (R767). -/
def execTLdrSp (rd : LowReg) (imm : BitVec 8) (s : State) : Result :=
  thumbLoad .ldr rd (spAddress imm) s

/-- Thumb PUSH, T14 (R770). -/
def execTPush (r : Bool) (list : BitVec 8) (s : State) : Result :=
  push r list s

/-- Thumb POP, T14 (R771). -/
def execTPop (r : Bool) (list : BitVec 8) (s : State) : Result :=
  pop r list s

/-- Thumb STMIA, T15 (R772). -/
def execTStmia (rb : LowReg) (list : BitVec 8) (s : State) : Result :=
  thumbStoreMultiple rb list s

/-- Thumb LDMIA, T15 (R773). -/
def execTLdmia (rb : LowReg) (list : BitVec 8) (s : State) : Result :=
  thumbLoadMultiple rb list s

end Sys2Proof.Machine
end

