-- ==== Sys2Proof/Machine/ThumbControl.lean ====
section
/-! DEFINITION. The Thumb branches, SWI, the undefined space and the two halves of BL (47_thumb_mem_branch.md): formats 16 to
19. -/

namespace Sys2Proof.Machine

/-- A conditional branch (R785). -/
def thumbBranchIf (c : Cond) (off : BitVec 8) (s : State) : Result :=
  runThumb (fun s =>
    .ok (if condHolds c s.cpsr then s.jump (s.pc + 4 + (off.signExtend 32 <<< 1)) else s.advance 2)) s

/-- The branch of format 18 (R788). -/
def thumbBranch (off : BitVec 11) (s : State) : Result :=
  runThumb (fun s => .ok (s.jump (s.pc + 4 + (off.signExtend 32 <<< 1)))) s

/-- The first half of BL (R789). -/
def blPrefix (off : BitVec 11) (s : State) : Result :=
  runThumb (fun s => .ok ((s.setX 14#4 (s.pc + 4 + (off.signExtend 32 <<< 12))).advance 2)) s

/-- The second half of BL (R790). -/
def blSuffix (off : BitVec 11) (s : State) : Result :=
  runThumb (fun s =>
    let t := s.x 4 14#4 + (off.setWidth 32 <<< 1)
    .ok (branchThumb t (s.setX 14#4 ((s.pc + 2) ||| 1#32)))) s

/-! ### The meanings, one per row of the opcode table -/

/-- Thumb BEQ, T16 (R785). -/
def execTBeq (off : BitVec 8) (s : State) : Result :=
  thumbBranchIf .eq off s

/-- Thumb BNE, T16 (R785). -/
def execTBne (off : BitVec 8) (s : State) : Result :=
  thumbBranchIf .ne off s

/-- Thumb BCS, T16 (R785). -/
def execTBcs (off : BitVec 8) (s : State) : Result :=
  thumbBranchIf .cs off s

/-- Thumb BCC, T16 (R785). -/
def execTBcc (off : BitVec 8) (s : State) : Result :=
  thumbBranchIf .cc off s

/-- Thumb BMI, T16 (R785). -/
def execTBmi (off : BitVec 8) (s : State) : Result :=
  thumbBranchIf .mi off s

/-- Thumb BPL, T16 (R785). -/
def execTBpl (off : BitVec 8) (s : State) : Result :=
  thumbBranchIf .pl off s

/-- Thumb BVS, T16 (R785). -/
def execTBvs (off : BitVec 8) (s : State) : Result :=
  thumbBranchIf .vs off s

/-- Thumb BVC, T16 (R785). -/
def execTBvc (off : BitVec 8) (s : State) : Result :=
  thumbBranchIf .vc off s

/-- Thumb BHI, T16 (R785). -/
def execTBhi (off : BitVec 8) (s : State) : Result :=
  thumbBranchIf .hi off s

/-- Thumb BLS, T16 (R785). -/
def execTBls (off : BitVec 8) (s : State) : Result :=
  thumbBranchIf .ls off s

/-- Thumb BGE, T16 (R785). -/
def execTBge (off : BitVec 8) (s : State) : Result :=
  thumbBranchIf .ge off s

/-- Thumb BLT, T16 (R785). -/
def execTBlt (off : BitVec 8) (s : State) : Result :=
  thumbBranchIf .lt off s

/-- Thumb BGT, T16 (R785). -/
def execTBgt (off : BitVec 8) (s : State) : Result :=
  thumbBranchIf .gt off s

/-- Thumb BLE, T16 (R785). -/
def execTBle (off : BitVec 8) (s : State) : Result :=
  thumbBranchIf .le off s

/-- Thumb UND, T16_UND (R786). -/
def execTUnd (low : BitVec 8) (s : State) : Result :=
  runThumb (undefined (0xDE00#32 ||| low.setWidth 32) 2) s

/-- Thumb SWI, T17 (R787). -/
def execTSwi (value : BitVec 8) (s : State) : Result :=
  runThumb (softwareInterrupt (.swi value) 2) s

/-- Thumb B, T18 (R788). -/
def execTB (off : BitVec 11) (s : State) : Result :=
  thumbBranch off s

/-- Thumb BL_PREFIX, T19_H0 (R789). -/
def execTBlPrefix (off : BitVec 11) (s : State) : Result :=
  blPrefix off s

/-- Thumb BL_SUFFIX, T19_H1 (R790). -/
def execTBlSuffix (off : BitVec 11) (s : State) : Result :=
  blSuffix off s

end Sys2Proof.Machine
end

