-- ==== Sys2Proof/Machine/Dispatch.lean ====
section
/-! DEFINITION. One arm per instruction: its meaning. -/

namespace Sys2Proof.Machine

/-- The meaning of an instruction at a state whose pc is the instruction's address. -/
def exec (i : Instr) (s : State) : Host.Outcome State Fault Refusal :=
  match i with
  | .andImm c f rn rd rot imm => Sys2Proof.Machine.execAndImm c f rn rd rot imm s
  | .andShiftImm c f rn rd amt sh rm => Sys2Proof.Machine.execAndShiftImm c f rn rd amt sh rm s
  | .andShiftReg c f rn rd rs sh rm => Sys2Proof.Machine.execAndShiftReg c f rn rd rs sh rm s
  | .eorImm c f rn rd rot imm => Sys2Proof.Machine.execEorImm c f rn rd rot imm s
  | .eorShiftImm c f rn rd amt sh rm => Sys2Proof.Machine.execEorShiftImm c f rn rd amt sh rm s
  | .eorShiftReg c f rn rd rs sh rm => Sys2Proof.Machine.execEorShiftReg c f rn rd rs sh rm s
  | .subImm c f rn rd rot imm => Sys2Proof.Machine.execSubImm c f rn rd rot imm s
  | .subShiftImm c f rn rd amt sh rm => Sys2Proof.Machine.execSubShiftImm c f rn rd amt sh rm s
  | .subShiftReg c f rn rd rs sh rm => Sys2Proof.Machine.execSubShiftReg c f rn rd rs sh rm s
  | .rsbImm c f rn rd rot imm => Sys2Proof.Machine.execRsbImm c f rn rd rot imm s
  | .rsbShiftImm c f rn rd amt sh rm => Sys2Proof.Machine.execRsbShiftImm c f rn rd amt sh rm s
  | .rsbShiftReg c f rn rd rs sh rm => Sys2Proof.Machine.execRsbShiftReg c f rn rd rs sh rm s
  | .addImm c f rn rd rot imm => Sys2Proof.Machine.execAddImm c f rn rd rot imm s
  | .addShiftImm c f rn rd amt sh rm => Sys2Proof.Machine.execAddShiftImm c f rn rd amt sh rm s
  | .addShiftReg c f rn rd rs sh rm => Sys2Proof.Machine.execAddShiftReg c f rn rd rs sh rm s
  | .adcImm c f rn rd rot imm => Sys2Proof.Machine.execAdcImm c f rn rd rot imm s
  | .adcShiftImm c f rn rd amt sh rm => Sys2Proof.Machine.execAdcShiftImm c f rn rd amt sh rm s
  | .adcShiftReg c f rn rd rs sh rm => Sys2Proof.Machine.execAdcShiftReg c f rn rd rs sh rm s
  | .sbcImm c f rn rd rot imm => Sys2Proof.Machine.execSbcImm c f rn rd rot imm s
  | .sbcShiftImm c f rn rd amt sh rm => Sys2Proof.Machine.execSbcShiftImm c f rn rd amt sh rm s
  | .sbcShiftReg c f rn rd rs sh rm => Sys2Proof.Machine.execSbcShiftReg c f rn rd rs sh rm s
  | .rscImm c f rn rd rot imm => Sys2Proof.Machine.execRscImm c f rn rd rot imm s
  | .rscShiftImm c f rn rd amt sh rm => Sys2Proof.Machine.execRscShiftImm c f rn rd amt sh rm s
  | .rscShiftReg c f rn rd rs sh rm => Sys2Proof.Machine.execRscShiftReg c f rn rd rs sh rm s
  | .tstImm c rn rd rot imm => Sys2Proof.Machine.execTstImm c rn rd rot imm s
  | .tstShiftImm c rn rd amt sh rm => Sys2Proof.Machine.execTstShiftImm c rn rd amt sh rm s
  | .tstShiftReg c rn rd rs sh rm => Sys2Proof.Machine.execTstShiftReg c rn rd rs sh rm s
  | .teqImm c rn rd rot imm => Sys2Proof.Machine.execTeqImm c rn rd rot imm s
  | .teqShiftImm c rn rd amt sh rm => Sys2Proof.Machine.execTeqShiftImm c rn rd amt sh rm s
  | .teqShiftReg c rn rd rs sh rm => Sys2Proof.Machine.execTeqShiftReg c rn rd rs sh rm s
  | .cmpImm c rn rd rot imm => Sys2Proof.Machine.execCmpImm c rn rd rot imm s
  | .cmpShiftImm c rn rd amt sh rm => Sys2Proof.Machine.execCmpShiftImm c rn rd amt sh rm s
  | .cmpShiftReg c rn rd rs sh rm => Sys2Proof.Machine.execCmpShiftReg c rn rd rs sh rm s
  | .cmnImm c rn rd rot imm => Sys2Proof.Machine.execCmnImm c rn rd rot imm s
  | .cmnShiftImm c rn rd amt sh rm => Sys2Proof.Machine.execCmnShiftImm c rn rd amt sh rm s
  | .cmnShiftReg c rn rd rs sh rm => Sys2Proof.Machine.execCmnShiftReg c rn rd rs sh rm s
  | .orrImm c f rn rd rot imm => Sys2Proof.Machine.execOrrImm c f rn rd rot imm s
  | .orrShiftImm c f rn rd amt sh rm => Sys2Proof.Machine.execOrrShiftImm c f rn rd amt sh rm s
  | .orrShiftReg c f rn rd rs sh rm => Sys2Proof.Machine.execOrrShiftReg c f rn rd rs sh rm s
  | .movImm c f rn rd rot imm => Sys2Proof.Machine.execMovImm c f rn rd rot imm s
  | .movShiftImm c f rn rd amt sh rm => Sys2Proof.Machine.execMovShiftImm c f rn rd amt sh rm s
  | .movShiftReg c f rn rd rs sh rm => Sys2Proof.Machine.execMovShiftReg c f rn rd rs sh rm s
  | .bicImm c f rn rd rot imm => Sys2Proof.Machine.execBicImm c f rn rd rot imm s
  | .bicShiftImm c f rn rd amt sh rm => Sys2Proof.Machine.execBicShiftImm c f rn rd amt sh rm s
  | .bicShiftReg c f rn rd rs sh rm => Sys2Proof.Machine.execBicShiftReg c f rn rd rs sh rm s
  | .mvnImm c f rn rd rot imm => Sys2Proof.Machine.execMvnImm c f rn rd rot imm s
  | .mvnShiftImm c f rn rd amt sh rm => Sys2Proof.Machine.execMvnShiftImm c f rn rd amt sh rm s
  | .mvnShiftReg c f rn rd rs sh rm => Sys2Proof.Machine.execMvnShiftReg c f rn rd rs sh rm s
  | .mrs c spsr rd => Sys2Proof.Machine.execMrs c spsr rd s
  | .msrReg c spsr mask rm => Sys2Proof.Machine.execMsrReg c spsr mask rm s
  | .msrImm c spsr mask rot imm => Sys2Proof.Machine.execMsrImm c spsr mask rot imm s
  | .bx c rm => Sys2Proof.Machine.execBx c rm s
  | .mul c f rd rn rs rm => Sys2Proof.Machine.execMul c f rd rn rs rm s
  | .mla c f rd rn rs rm => Sys2Proof.Machine.execMla c f rd rn rs rm s
  | .umull c f rdHi rdLo rs rm => Sys2Proof.Machine.execUmull c f rdHi rdLo rs rm s
  | .umlal c f rdHi rdLo rs rm => Sys2Proof.Machine.execUmlal c f rdHi rdLo rs rm s
  | .smull c f rdHi rdLo rs rm => Sys2Proof.Machine.execSmull c f rdHi rdLo rs rm s
  | .smlal c f rdHi rdLo rs rm => Sys2Proof.Machine.execSmlal c f rdHi rdLo rs rm s
  | .swp c rn rd rm => Sys2Proof.Machine.execSwp c rn rd rm s
  | .swpb c rn rd rm => Sys2Proof.Machine.execSwpb c rn rd rm s
  | .strhPre c u im w rn rd hi lo => Sys2Proof.Machine.execStrhPre c u im w rn rd hi lo s
  | .strhPost c u im rn rd hi lo => Sys2Proof.Machine.execStrhPost c u im rn rd hi lo s
  | .ldrhPre c u im w rn rd hi lo => Sys2Proof.Machine.execLdrhPre c u im w rn rd hi lo s
  | .ldrhPost c u im rn rd hi lo => Sys2Proof.Machine.execLdrhPost c u im rn rd hi lo s
  | .ldrsbPre c u im w rn rd hi lo => Sys2Proof.Machine.execLdrsbPre c u im w rn rd hi lo s
  | .ldrsbPost c u im rn rd hi lo => Sys2Proof.Machine.execLdrsbPost c u im rn rd hi lo s
  | .ldrshPre c u im w rn rd hi lo => Sys2Proof.Machine.execLdrshPre c u im w rn rd hi lo s
  | .ldrshPost c u im rn rd hi lo => Sys2Proof.Machine.execLdrshPost c u im rn rd hi lo s
  | .strImmPre c u w rn rd off => Sys2Proof.Machine.execStrImmPre c u w rn rd off s
  | .strImmPost c u rn rd off => Sys2Proof.Machine.execStrImmPost c u rn rd off s
  | .strtImm c u rn rd off => Sys2Proof.Machine.execStrtImm c u rn rd off s
  | .strRegPre c u w rn rd amt sh rm => Sys2Proof.Machine.execStrRegPre c u w rn rd amt sh rm s
  | .strRegPost c u rn rd amt sh rm => Sys2Proof.Machine.execStrRegPost c u rn rd amt sh rm s
  | .strtReg c u rn rd amt sh rm => Sys2Proof.Machine.execStrtReg c u rn rd amt sh rm s
  | .ldrImmPre c u w rn rd off => Sys2Proof.Machine.execLdrImmPre c u w rn rd off s
  | .ldrImmPost c u rn rd off => Sys2Proof.Machine.execLdrImmPost c u rn rd off s
  | .ldrtImm c u rn rd off => Sys2Proof.Machine.execLdrtImm c u rn rd off s
  | .ldrRegPre c u w rn rd amt sh rm => Sys2Proof.Machine.execLdrRegPre c u w rn rd amt sh rm s
  | .ldrRegPost c u rn rd amt sh rm => Sys2Proof.Machine.execLdrRegPost c u rn rd amt sh rm s
  | .ldrtReg c u rn rd amt sh rm => Sys2Proof.Machine.execLdrtReg c u rn rd amt sh rm s
  | .strbImmPre c u w rn rd off => Sys2Proof.Machine.execStrbImmPre c u w rn rd off s
  | .strbImmPost c u rn rd off => Sys2Proof.Machine.execStrbImmPost c u rn rd off s
  | .strbtImm c u rn rd off => Sys2Proof.Machine.execStrbtImm c u rn rd off s
  | .strbRegPre c u w rn rd amt sh rm => Sys2Proof.Machine.execStrbRegPre c u w rn rd amt sh rm s
  | .strbRegPost c u rn rd amt sh rm => Sys2Proof.Machine.execStrbRegPost c u rn rd amt sh rm s
  | .strbtReg c u rn rd amt sh rm => Sys2Proof.Machine.execStrbtReg c u rn rd amt sh rm s
  | .ldrbImmPre c u w rn rd off => Sys2Proof.Machine.execLdrbImmPre c u w rn rd off s
  | .ldrbImmPost c u rn rd off => Sys2Proof.Machine.execLdrbImmPost c u rn rd off s
  | .ldrbtImm c u rn rd off => Sys2Proof.Machine.execLdrbtImm c u rn rd off s
  | .ldrbRegPre c u w rn rd amt sh rm => Sys2Proof.Machine.execLdrbRegPre c u w rn rd amt sh rm s
  | .ldrbRegPost c u rn rd amt sh rm => Sys2Proof.Machine.execLdrbRegPost c u rn rd amt sh rm s
  | .ldrbtReg c u rn rd amt sh rm => Sys2Proof.Machine.execLdrbtReg c u rn rd amt sh rm s
  | .und c hi lo => Sys2Proof.Machine.execUnd c hi lo s
  | .ldmia c ub w rn list => Sys2Proof.Machine.execLdmia c ub w rn list s
  | .stmia c ub w rn list => Sys2Proof.Machine.execStmia c ub w rn list s
  | .ldmib c ub w rn list => Sys2Proof.Machine.execLdmib c ub w rn list s
  | .stmib c ub w rn list => Sys2Proof.Machine.execStmib c ub w rn list s
  | .ldmda c ub w rn list => Sys2Proof.Machine.execLdmda c ub w rn list s
  | .stmda c ub w rn list => Sys2Proof.Machine.execStmda c ub w rn list s
  | .ldmdb c ub w rn list => Sys2Proof.Machine.execLdmdb c ub w rn list s
  | .stmdb c ub w rn list => Sys2Proof.Machine.execStmdb c ub w rn list s
  | .b c off => Sys2Proof.Machine.execB c off s
  | .bl c off => Sys2Proof.Machine.execBl c off s
  | .stc c ix rn crd cp off => Sys2Proof.Machine.execStc c ix rn crd cp off s
  | .ldc c ix rn crd cp off => Sys2Proof.Machine.execLdc c ix rn crd cp off s
  | .cdp c op1 crn crd cp op2 crm => Sys2Proof.Machine.execCdp c op1 crn crd cp op2 crm s
  | .mcr c op1 crn rd cp op2 crm => Sys2Proof.Machine.execMcr c op1 crn rd cp op2 crm s
  | .mrc c op1 crn rd cp op2 crm => Sys2Proof.Machine.execMrc c op1 crn rd cp op2 crm s
  | .swi c comment => Sys2Proof.Machine.execSwi c comment s
  | .tLslImm off rs rd => Sys2Proof.Machine.execTLslImm off rs rd s
  | .tLsrImm off rs rd => Sys2Proof.Machine.execTLsrImm off rs rd s
  | .tAsrImm off rs rd => Sys2Proof.Machine.execTAsrImm off rs rd s
  | .tAddReg rn rs rd => Sys2Proof.Machine.execTAddReg rn rs rd s
  | .tSubReg rn rs rd => Sys2Proof.Machine.execTSubReg rn rs rd s
  | .tAddImm3 imm rs rd => Sys2Proof.Machine.execTAddImm3 imm rs rd s
  | .tSubImm3 imm rs rd => Sys2Proof.Machine.execTSubImm3 imm rs rd s
  | .tMovImm8 rd imm => Sys2Proof.Machine.execTMovImm8 rd imm s
  | .tCmpImm8 rd imm => Sys2Proof.Machine.execTCmpImm8 rd imm s
  | .tAddImm8 rd imm => Sys2Proof.Machine.execTAddImm8 rd imm s
  | .tSubImm8 rd imm => Sys2Proof.Machine.execTSubImm8 rd imm s
  | .tAnd rs rd => Sys2Proof.Machine.execTAnd rs rd s
  | .tEor rs rd => Sys2Proof.Machine.execTEor rs rd s
  | .tLslReg rs rd => Sys2Proof.Machine.execTLslReg rs rd s
  | .tLsrReg rs rd => Sys2Proof.Machine.execTLsrReg rs rd s
  | .tAsrReg rs rd => Sys2Proof.Machine.execTAsrReg rs rd s
  | .tAdc rs rd => Sys2Proof.Machine.execTAdc rs rd s
  | .tSbc rs rd => Sys2Proof.Machine.execTSbc rs rd s
  | .tRorReg rs rd => Sys2Proof.Machine.execTRorReg rs rd s
  | .tTst rs rd => Sys2Proof.Machine.execTTst rs rd s
  | .tNeg rs rd => Sys2Proof.Machine.execTNeg rs rd s
  | .tCmpReg rs rd => Sys2Proof.Machine.execTCmpReg rs rd s
  | .tCmn rs rd => Sys2Proof.Machine.execTCmn rs rd s
  | .tOrr rs rd => Sys2Proof.Machine.execTOrr rs rd s
  | .tMul rs rd => Sys2Proof.Machine.execTMul rs rd s
  | .tBic rs rd => Sys2Proof.Machine.execTBic rs rd s
  | .tMvn rs rd => Sys2Proof.Machine.execTMvn rs rd s
  | .tAddHi m d => Sys2Proof.Machine.execTAddHi m d s
  | .tCmpHi m d => Sys2Proof.Machine.execTCmpHi m d s
  | .tMovHi m d => Sys2Proof.Machine.execTMovHi m d s
  | .tBx m sbz => Sys2Proof.Machine.execTBx m sbz s
  | .tLdrPc rd imm => Sys2Proof.Machine.execTLdrPc rd imm s
  | .tStrReg ro rb rd => Sys2Proof.Machine.execTStrReg ro rb rd s
  | .tStrbReg ro rb rd => Sys2Proof.Machine.execTStrbReg ro rb rd s
  | .tLdrReg ro rb rd => Sys2Proof.Machine.execTLdrReg ro rb rd s
  | .tLdrbReg ro rb rd => Sys2Proof.Machine.execTLdrbReg ro rb rd s
  | .tStrhReg ro rb rd => Sys2Proof.Machine.execTStrhReg ro rb rd s
  | .tLdsbReg ro rb rd => Sys2Proof.Machine.execTLdsbReg ro rb rd s
  | .tLdrhReg ro rb rd => Sys2Proof.Machine.execTLdrhReg ro rb rd s
  | .tLdshReg ro rb rd => Sys2Proof.Machine.execTLdshReg ro rb rd s
  | .tStrOff off rb rd => Sys2Proof.Machine.execTStrOff off rb rd s
  | .tLdrOff off rb rd => Sys2Proof.Machine.execTLdrOff off rb rd s
  | .tStrbOff off rb rd => Sys2Proof.Machine.execTStrbOff off rb rd s
  | .tLdrbOff off rb rd => Sys2Proof.Machine.execTLdrbOff off rb rd s
  | .tStrhOff off rb rd => Sys2Proof.Machine.execTStrhOff off rb rd s
  | .tLdrhOff off rb rd => Sys2Proof.Machine.execTLdrhOff off rb rd s
  | .tStrSp rd imm => Sys2Proof.Machine.execTStrSp rd imm s
  | .tLdrSp rd imm => Sys2Proof.Machine.execTLdrSp rd imm s
  | .tAddPc rd imm => Sys2Proof.Machine.execTAddPc rd imm s
  | .tAddSp rd imm => Sys2Proof.Machine.execTAddSp rd imm s
  | .tAdjustSp sub imm => Sys2Proof.Machine.execTAdjustSp sub imm s
  | .tPush r list => Sys2Proof.Machine.execTPush r list s
  | .tPop r list => Sys2Proof.Machine.execTPop r list s
  | .tStmia rb list => Sys2Proof.Machine.execTStmia rb list s
  | .tLdmia rb list => Sys2Proof.Machine.execTLdmia rb list s
  | .tBeq off => Sys2Proof.Machine.execTBeq off s
  | .tBne off => Sys2Proof.Machine.execTBne off s
  | .tBcs off => Sys2Proof.Machine.execTBcs off s
  | .tBcc off => Sys2Proof.Machine.execTBcc off s
  | .tBmi off => Sys2Proof.Machine.execTBmi off s
  | .tBpl off => Sys2Proof.Machine.execTBpl off s
  | .tBvs off => Sys2Proof.Machine.execTBvs off s
  | .tBvc off => Sys2Proof.Machine.execTBvc off s
  | .tBhi off => Sys2Proof.Machine.execTBhi off s
  | .tBls off => Sys2Proof.Machine.execTBls off s
  | .tBge off => Sys2Proof.Machine.execTBge off s
  | .tBlt off => Sys2Proof.Machine.execTBlt off s
  | .tBgt off => Sys2Proof.Machine.execTBgt off s
  | .tBle off => Sys2Proof.Machine.execTBle off s
  | .tUnd low => Sys2Proof.Machine.execTUnd low s
  | .tSwi value => Sys2Proof.Machine.execTSwi value s
  | .tB off => Sys2Proof.Machine.execTB off s
  | .tBlPrefix off => Sys2Proof.Machine.execTBlPrefix off s
  | .tBlSuffix off => Sys2Proof.Machine.execTBlSuffix off s

end Sys2Proof.Machine
end

