-- ==== Sys2Proof/Machine/HostEvents.lean ====
section
/-! DEFINITION. Reset (70_reset_and_hazards R950, R951) and the events of the agents around the CPU unit, each one atomic action
between two CPU steps (R240, R242, R855, R860 to R866, R910, R965, R966). -/

namespace Sys2Proof.Machine

/-- The register file at `directBoot` entry (R151): R13_usr, R13_irq and R13_svc set, every other register 0. -/
def directBootRegs : RegFile :=
  (((Vector.replicate 30 0#32).set (physIndex .usr 13#4) 0x03007F00#32).set (physIndex .irq 13#4) 0x03007FA0#32).set
    (physIndex .svc 13#4) 0x03007FE0#32

/-- The CPU unit after a reset (R950): `hwReset` is R150 (registers, flags and SPSRs 0: DESIGN CHOICE, log 2, log 23),
`directBoot` is R151. The pipeline is empty. -/
def resetCpu (s : State) : State :=
  let cleared := { s with spsr := ⟨0, 0, 0, 0, 0⟩, afterUserLdm := false, stale := [] }
  match s.params.bootProfile with
  | .hwReset =>
    { cleared with
      regs := Vector.replicate 30 0#32
      pc := 0x00000000
      cpsr := { n := false, z := false, c := false, v := false, i := true, f := true, t := false, m := .svc } }
  | .directBoot =>
    { cleared with
      regs := directBootRegs
      pc := 0x08000000
      cpsr := { n := false, z := false, c := false, v := false, i := false, f := false, t := false, m := .sys } }

/-- A reset of the block (R951): the three units; external memory is not part of the block and is kept (log 23). -/
def resetBlock (s : State) : State :=
  { resetCpu s with save := s.save.resetUnit, proxy := s.proxy.clear s.params }

/-- The machine at power-on with these parameters (R12, R950, R152, R153): a reset of the CPU unit, the savedata buffer set
from `initialImage`, the render proxy constructed (log 31: no clear message posted). -/
def State.powerOn (p : Params) : State :=
  resetCpu { State.reset with params := p, save := Save.powerOn p.initialImage }

/-- Handing a value to the host. -/
def State.emit (s : State) (o : HostOutput) : State := { s with outputs := s.outputs ++ [o] }

/-- The snapshot `freeze` returns (R126, R867, R966). -/
def State.snapshot (s : State) : Snapshot where
  regs := s.regs
  pc := s.pc
  cpsr := s.cpsr
  spsr := s.spsr
  cycles := s.cycles
  palette := ⟨s.params.paletteSize, s.proxy.palette⟩
  vram := ⟨s.params.vramSize, s.proxy.vram⟩
  oam := ⟨s.params.oamSize, s.proxy.oam⟩

/-- `defrost(s)` (R966): the CPU state of the snapshot, then `replace` with its three regions; an empty pipeline. -/
def defrost (snap : Snapshot) (s : State) : Except Fault State := do
  let x ← stopAt s (s.proxy.replace s.params snap.palette snap.vram snap.oam)
  return { s with
    regs := snap.regs
    pc := snap.pc
    cpsr := snap.cpsr
    spsr := snap.spsr
    cycles := snap.cycles
    afterUserLdm := false
    stale := []
    proxy := x }

/-- A 16-bit load of the DMA unit (R242): its value goes to the host. -/
def dmaLoad16 (a : Word) (s : State) : Except Fault State := do
  let r ← busLoad .half a s
  return r.2.emit (.dmaRead r.1)

/-- The end-of-frame flush (R965): nothing where nothing is pending. -/
def flushSave (s : State) : State :=
  if s.save.writePending then
    { s with save := { s.save with writePending := false } }.emit (.flushed s.save.buffer)
  else s

/-- The delivery of one pending reply of the worker (R866, R870): the counters, and the completed frame to the host; nothing
where no finish message is unanswered. -/
def workerReply (handle : Nat) (s : State) : State :=
  if s.proxy.awaiting = 0 then s else { s with proxy := s.proxy.workerReply handle }.emit (.frame handle)

/-- One event of the agents around the CPU unit. -/
def hostStep (e : HostEvent) (s : State) : Except Fault State :=
  match e with
  | .reset => .ok (resetBlock s)
  | .irq level => .ok { s with irqLine := level }
  | .dma3 count enable => .ok { s with dma3Count := count, dma3Enable := enable }
  | .dmaLoad16 a => dmaLoad16 a s
  | .dmaStore16 a v => busStore .half a (v.setWidth 32) s
  | .videoRegWrite reg v => .ok { s with proxy := s.proxy.videoRegWrite s.params reg v }
  | .startDraw => .ok { s with proxy := s.proxy.startDraw s.params }
  | .drawScanline y => .ok { s with proxy := s.proxy.drawScanline s.params y }
  | .finishDraw => .ok { s with proxy := s.proxy.finishDraw }
  | .clear => .ok { s with proxy := s.proxy.clear s.params }
  | .replace pal vr oa => do return { s with proxy := ← stopAt s (s.proxy.replace s.params pal vr oa) }
  | .workerReply h => .ok (workerReply h s)
  | .flush => .ok (flushSave s)
  | .freeze => .ok (s.emit (.frozen s.snapshot))
  | .defrost snap => defrost snap s

end Sys2Proof.Machine
end

