-- ==== Sys2Proof/Machine/Fetch.lean ====
section
/-! DEFINITION. Interrupts (60_exceptions R910 to R912, R930), instruction fetch (R203, R210) with the raced words of the
pipeline (R250, R971), the CPU unit's turn (R952), and how a program is placed for a test (log 4). -/

namespace Sys2Proof.Machine

/-! ### Interrupts -/

/-- The interrupt taken at this instruction boundary, FIQ before IRQ (R910, R930, R952). -/
def pendingInterrupt (s : State) : Option Exc :=
  if s.params.fiqLine && !s.cpsr.f then some .fiq
  else if s.irqLine && !s.cpsr.i then some .irq
  else none

/-- Taking an interrupt (R922, R952): the link value is next + 4. -/
def enterInterrupt (e : Exc) (s : State) : State := takeException e (s.pc + 4) s

/-! ### Fetch -/

/-- The words the pipeline may hold for an address beside memory's (R250). -/
def racedWords (l : List Stale) (a : Word) : List (Option Word) :=
  (l.filter (fun e => e.addr == a)).map (·.old)

/-- The pipeline after the instruction at an address has left it. -/
def dropRaced (l : List Stale) (a : Word) : List Stale := l.filter (fun e => e.addr != a)

/-- The word executed at a raced address: a draw among memory's word and the older ones (R250, D15). -/
def chooseRaced (now : Word) (olds : List (Option Word)) (s : State) : Except Fault (Word × State) :=
  if olds.isEmpty then .ok (now, s)
  else
    let d := draw s
    match (some now :: olds)[d.1.toNat % (olds.length + 1)]?.join with
    | some w => .ok (w, d.2)
    | none => .error (.stop (.unwrittenRead s.pc) d.2)

/-- Fetching the code word at the pc (R203), through the same interface as data. -/
def fetch (s : State) : Except Fault (Code × State) := do
  let r ← busLoad (fetchWidth s) s.pc s
  let c ← chooseRaced r.1 (racedWords s.stale s.pc) r.2
  return (if s.cpsr.t then .thumb (c.1.setWidth 16) else .arm c.1, { c.2 with stale := dropRaced c.2.stale s.pc })

/-- Running a code word: the instruction it encodes, or the unallocated space (R586, R786). -/
def runCode (k : Code) (s : State) : Result :=
  match decode k with
  | some i => exec i s
  | none => unallocated k s

/-- Fetching and running one instruction (R952). -/
def runInstruction (s : State) : Result :=
  match fetch s with
  | .error f => .fault f
  | .ok (k, s') => runCode k s'

/-- The CPU unit's turn (R952): an interrupt (R910), else the instruction at the pc. -/
def cpuStep (s : State) : Result :=
  match pendingInterrupt s with
  | some e => .next (enterInterrupt e s)
  | none => runInstruction s

/-- Whose turn it is, and the state with that turn taken off the schedule (log 10). -/
def State.nextTurn (s : State) : Turn × State :=
  match s.schedule with
  | [] => (.cpu, s)
  | t :: rest => (t, { s with schedule := rest })

/-! ### Placing a program -/

/-- Writing one byte of an instruction where a fetch at its address reads it: the launch's load of memory (log 4). -/
def placeByte (a : Word) (b : Byte) (s : State) : State :=
  match classify s.params a with
  | some (.ram, k) | some (.rom, k) => { s with mem := Memory.write s.mem k b }
  | some (.palette, o) => { s with proxy := s.proxy.setRegion .palette (Memory.writeZ s.proxy.palette o b) }
  | some (.vram, o) => { s with proxy := s.proxy.setRegion .vram (Memory.writeZ s.proxy.vram o b) }
  | some (.oam, o) => { s with proxy := s.proxy.setRegion .oam (Memory.writeZ s.proxy.oam o b) }
  | some (.save, o) => { s with save := { s.save with buffer := s.save.buffer.write o b } }
  | some (.io, _) | none => s

/-- Writing the bytes of an instruction from an address on. -/
def placeBytes (a : Word) : List Byte → State → State
  | [], s => s
  | b :: bs, s => placeBytes (a + 1) bs (placeByte a b s)

/-- A state whose next step fetches and runs exactly this code word: its bytes at the pc, the Thumb bit of its width, and
nothing that would come before the fetch. -/
def placeCode (k : Code) (s : State) : State :=
  placeBytes s.pc k.bytes
    { s with
      cpsr := { s.cpsr with t := match k with | .arm _ => false | .thumb _ => true }
      schedule := []
      irqLine := false
      stale := [] }

end Sys2Proof.Machine
end

