-- ==== Sys2Proof/Machine/Step.lean ====
section
/-! DEFINITION. One step of the block (70_reset_and_hazards R952): an event of the host, an interrupt entry, or one
instruction. Every operation it calls stands in Fetch.lean, HostEvents.lean and Dispatch.lean. -/

namespace Sys2Proof.Machine

/-- One step: the CPU unit's turn, or one event of another agent (R10, R240, R952; log 10). -/
def step (s : State) : Host.Outcome State Fault Refusal :=
  match s.nextTurn with
  | (.cpu, s') => cpuStep s'
  | (.host e, s') => settle (hostStep e s')

/-- `s` with the instruction of a table word stored where `step` fetches its next instruction (log 4). -/
def State.withFetchWord (s : State) (nbits w : Nat) : State := placeCode (codeOfTable nbits w) s

end Sys2Proof.Machine
end

