-- ==== Sys2Proof/Safety.lean ====
section
/-! DEFINITION. The terms claims are made in: what each row of the opcode table is an instance of, when an instruction starts
and which of its cases are unpredictable (93 section 1), results and flags as exact arithmetic, the bytes of the address space
and what a store may touch, and the invariant of the machine. Nothing in the machine uses these. -/

namespace Sys2Proof.Machine

/-! ### The rows of the opcode table by shape -/

/-- An operand of a Thumb ALU instruction. -/
inductive TArg where
  | reg (r : LowReg)
  | imm (v : Word)
  deriving DecidableEq, Repr

/-- The shift amount of a Thumb shift. -/
inductive TAmount where
  | imm (n : BitVec 5)
  | reg (r : LowReg)
  deriving DecidableEq, Repr

/-- The address forms of the Thumb single transfers (R750 to R767). -/
inductive TAddr where
  | pc (imm : BitVec 8)
  | sp (imm : BitVec 8)
  | regs (ro rb : LowReg)
  | off (scale : Nat) (n : BitVec 5) (rb : LowReg)
  deriving DecidableEq, Repr

/-- What a row is an instance of: the fields that decide its effect, in the spec's own groups. -/
inductive Shape where
  /-- R450: opcode, condition, S, Rn, Rd, operand 2. -/
  | dataProc (op : DpOp) (c : Cond) (f : Bool) (rn rd : RegNum) (o : Operand2)
  /-- R500, R502. -/
  | multiply (c : Cond) (f : Bool) (rd : RegNum) (acc : Option RegNum) (rs rm : RegNum)
  /-- R510 to R514. -/
  | longMultiply (signed acc : Bool) (c : Cond) (f : Bool) (rdHi rdLo rs rm : RegNum)
  /-- R560. -/
  | mrs (c : Cond) (spsr : Bool) (rd : RegNum)
  /-- R565. -/
  | msr (c : Cond) (spsr : Bool) (mask : BitVec 4) (o : Operand2)
  /-- R555. -/
  | bx (c : Cond) (rm : RegNum)
  /-- R550, R551. -/
  | branch (c : Cond) (link : Bool) (off : BitVec 24)
  /-- R630, R631. -/
  | swap (load store : Transfer) (c : Cond) (rn rd rm : RegNum)
  /-- R600 to R625: the transfer, P U W, Rn, Rd, the offset. -/
  | transfer (t : Transfer) (c : Cond) (x : Indexing) (rn rd : RegNum) (o : Offset)
  /-- R652, R653: load or store, the addressing, S, W, Rn, the list. -/
  | block (load : Bool) (bm : BlockMode) (c : Cond) (ub w : Bool) (rn : RegNum) (list : BitVec 16)
  /-- R580, R585: an undefined or coprocessor word. -/
  | undefArm (c : Cond) (word : Word)
  /-- R570. -/
  | swi (c : Cond) (comment : BitVec 24)
  /-- R701 to R703, R714 to R716, R719. -/
  | tShift (sh : ShiftKind) (n : TAmount) (src rd : LowReg)
  /-- R704 to R713, R717, R718, R720 to R724, R726, R727: opcode, Rd, the two operands. -/
  | tAlu (op : DpOp) (rd : LowReg) (a b : TArg)
  /-- R725. -/
  | tMul (rs rd : LowReg)
  /-- R730 to R732: ADD, CMP or MOV of format 5. -/
  | tHi (op : DpOp) (m d : RegNum)
  /-- R735. -/
  | tBx (m : RegNum)
  /-- R740, R741: from the PC or from SP. -/
  | tAddress (sp : Bool) (rd : LowReg) (imm : BitVec 8)
  /-- R742. -/
  | tAdjustSp (sub : Bool) (imm : BitVec 7)
  /-- R750 to R767. -/
  | tTransfer (t : Transfer) (rd : LowReg) (a : TAddr)
  /-- R770. -/
  | tPush (r : Bool) (list : BitVec 8)
  /-- R771. -/
  | tPop (r : Bool) (list : BitVec 8)
  /-- R772, R773. -/
  | tBlock (load : Bool) (rb : LowReg) (list : BitVec 8)
  /-- R785. -/
  | tBranchIf (c : Cond) (off : BitVec 8)
  /-- R786. -/
  | tUnd (low : BitVec 8)
  /-- R787. -/
  | tSwi (value : BitVec 8)
  /-- R788. -/
  | tB (off : BitVec 11)
  /-- R789 (first half) and R790 (second half). -/
  | tBl (suffix : Bool) (off : BitVec 11)
  deriving DecidableEq, Repr

/-- The shape of each row: its mnemonic's operation with the row's fixed bits (P, W, B, L, S, H) and fields. -/
def shapeOf : Instr → Shape
  | .andImm c f rn rd rot imm => .dataProc .and c f rn rd (.imm rot imm)
  | .andShiftImm c f rn rd amt sh rm => .dataProc .and c f rn rd (.shiftImm amt sh rm)
  | .andShiftReg c f rn rd rs sh rm => .dataProc .and c f rn rd (.shiftReg rs sh rm)
  | .eorImm c f rn rd rot imm => .dataProc .eor c f rn rd (.imm rot imm)
  | .eorShiftImm c f rn rd amt sh rm => .dataProc .eor c f rn rd (.shiftImm amt sh rm)
  | .eorShiftReg c f rn rd rs sh rm => .dataProc .eor c f rn rd (.shiftReg rs sh rm)
  | .subImm c f rn rd rot imm => .dataProc .sub c f rn rd (.imm rot imm)
  | .subShiftImm c f rn rd amt sh rm => .dataProc .sub c f rn rd (.shiftImm amt sh rm)
  | .subShiftReg c f rn rd rs sh rm => .dataProc .sub c f rn rd (.shiftReg rs sh rm)
  | .rsbImm c f rn rd rot imm => .dataProc .rsb c f rn rd (.imm rot imm)
  | .rsbShiftImm c f rn rd amt sh rm => .dataProc .rsb c f rn rd (.shiftImm amt sh rm)
  | .rsbShiftReg c f rn rd rs sh rm => .dataProc .rsb c f rn rd (.shiftReg rs sh rm)
  | .addImm c f rn rd rot imm => .dataProc .add c f rn rd (.imm rot imm)
  | .addShiftImm c f rn rd amt sh rm => .dataProc .add c f rn rd (.shiftImm amt sh rm)
  | .addShiftReg c f rn rd rs sh rm => .dataProc .add c f rn rd (.shiftReg rs sh rm)
  | .adcImm c f rn rd rot imm => .dataProc .adc c f rn rd (.imm rot imm)
  | .adcShiftImm c f rn rd amt sh rm => .dataProc .adc c f rn rd (.shiftImm amt sh rm)
  | .adcShiftReg c f rn rd rs sh rm => .dataProc .adc c f rn rd (.shiftReg rs sh rm)
  | .sbcImm c f rn rd rot imm => .dataProc .sbc c f rn rd (.imm rot imm)
  | .sbcShiftImm c f rn rd amt sh rm => .dataProc .sbc c f rn rd (.shiftImm amt sh rm)
  | .sbcShiftReg c f rn rd rs sh rm => .dataProc .sbc c f rn rd (.shiftReg rs sh rm)
  | .rscImm c f rn rd rot imm => .dataProc .rsc c f rn rd (.imm rot imm)
  | .rscShiftImm c f rn rd amt sh rm => .dataProc .rsc c f rn rd (.shiftImm amt sh rm)
  | .rscShiftReg c f rn rd rs sh rm => .dataProc .rsc c f rn rd (.shiftReg rs sh rm)
  | .tstImm c rn rd rot imm => .dataProc .tst c true rn rd (.imm rot imm)
  | .tstShiftImm c rn rd amt sh rm => .dataProc .tst c true rn rd (.shiftImm amt sh rm)
  | .tstShiftReg c rn rd rs sh rm => .dataProc .tst c true rn rd (.shiftReg rs sh rm)
  | .teqImm c rn rd rot imm => .dataProc .teq c true rn rd (.imm rot imm)
  | .teqShiftImm c rn rd amt sh rm => .dataProc .teq c true rn rd (.shiftImm amt sh rm)
  | .teqShiftReg c rn rd rs sh rm => .dataProc .teq c true rn rd (.shiftReg rs sh rm)
  | .cmpImm c rn rd rot imm => .dataProc .cmp c true rn rd (.imm rot imm)
  | .cmpShiftImm c rn rd amt sh rm => .dataProc .cmp c true rn rd (.shiftImm amt sh rm)
  | .cmpShiftReg c rn rd rs sh rm => .dataProc .cmp c true rn rd (.shiftReg rs sh rm)
  | .cmnImm c rn rd rot imm => .dataProc .cmn c true rn rd (.imm rot imm)
  | .cmnShiftImm c rn rd amt sh rm => .dataProc .cmn c true rn rd (.shiftImm amt sh rm)
  | .cmnShiftReg c rn rd rs sh rm => .dataProc .cmn c true rn rd (.shiftReg rs sh rm)
  | .orrImm c f rn rd rot imm => .dataProc .orr c f rn rd (.imm rot imm)
  | .orrShiftImm c f rn rd amt sh rm => .dataProc .orr c f rn rd (.shiftImm amt sh rm)
  | .orrShiftReg c f rn rd rs sh rm => .dataProc .orr c f rn rd (.shiftReg rs sh rm)
  | .movImm c f rn rd rot imm => .dataProc .mov c f rn rd (.imm rot imm)
  | .movShiftImm c f rn rd amt sh rm => .dataProc .mov c f rn rd (.shiftImm amt sh rm)
  | .movShiftReg c f rn rd rs sh rm => .dataProc .mov c f rn rd (.shiftReg rs sh rm)
  | .bicImm c f rn rd rot imm => .dataProc .bic c f rn rd (.imm rot imm)
  | .bicShiftImm c f rn rd amt sh rm => .dataProc .bic c f rn rd (.shiftImm amt sh rm)
  | .bicShiftReg c f rn rd rs sh rm => .dataProc .bic c f rn rd (.shiftReg rs sh rm)
  | .mvnImm c f rn rd rot imm => .dataProc .mvn c f rn rd (.imm rot imm)
  | .mvnShiftImm c f rn rd amt sh rm => .dataProc .mvn c f rn rd (.shiftImm amt sh rm)
  | .mvnShiftReg c f rn rd rs sh rm => .dataProc .mvn c f rn rd (.shiftReg rs sh rm)
  | .mrs c spsr rd => .mrs c spsr rd
  | .msrReg c spsr mask rm => .msr c spsr mask (.shiftImm 0#5 .lsl rm)
  | .msrImm c spsr mask rot imm => .msr c spsr mask (.imm rot imm)
  | .bx c rm => .bx c rm
  | .mul c f rd _ rs rm => .multiply c f rd none rs rm
  | .mla c f rd rn rs rm => .multiply c f rd (some rn) rs rm
  | .umull c f rdHi rdLo rs rm => .longMultiply false false c f rdHi rdLo rs rm
  | .umlal c f rdHi rdLo rs rm => .longMultiply false true c f rdHi rdLo rs rm
  | .smull c f rdHi rdLo rs rm => .longMultiply true false c f rdHi rdLo rs rm
  | .smlal c f rdHi rdLo rs rm => .longMultiply true true c f rdHi rdLo rs rm
  | .swp c rn rd rm => .swap .ldr .str c rn rd rm
  | .swpb c rn rd rm => .swap .ldrb .strb c rn rd rm
  | .strhPre c u im w rn rd hi lo => .transfer .strh c ⟨true, u, w⟩ rn rd (halfOffset im hi lo)
  | .strhPost c u im rn rd hi lo => .transfer .strh c ⟨false, u, false⟩ rn rd (halfOffset im hi lo)
  | .ldrhPre c u im w rn rd hi lo => .transfer .ldrh c ⟨true, u, w⟩ rn rd (halfOffset im hi lo)
  | .ldrhPost c u im rn rd hi lo => .transfer .ldrh c ⟨false, u, false⟩ rn rd (halfOffset im hi lo)
  | .ldrsbPre c u im w rn rd hi lo => .transfer .ldrsb c ⟨true, u, w⟩ rn rd (halfOffset im hi lo)
  | .ldrsbPost c u im rn rd hi lo => .transfer .ldrsb c ⟨false, u, false⟩ rn rd (halfOffset im hi lo)
  | .ldrshPre c u im w rn rd hi lo => .transfer .ldrsh c ⟨true, u, w⟩ rn rd (halfOffset im hi lo)
  | .ldrshPost c u im rn rd hi lo => .transfer .ldrsh c ⟨false, u, false⟩ rn rd (halfOffset im hi lo)
  | .strImmPre c u w rn rd off => .transfer .str c ⟨true, u, w⟩ rn rd (.imm (off.setWidth 32))
  | .strImmPost c u rn rd off => .transfer .str c ⟨false, u, false⟩ rn rd (.imm (off.setWidth 32))
  | .strtImm c u rn rd off => .transfer .str c ⟨false, u, true⟩ rn rd (.imm (off.setWidth 32))
  | .strRegPre c u w rn rd amt sh rm => .transfer .str c ⟨true, u, w⟩ rn rd (.shifted amt sh rm)
  | .strRegPost c u rn rd amt sh rm => .transfer .str c ⟨false, u, false⟩ rn rd (.shifted amt sh rm)
  | .strtReg c u rn rd amt sh rm => .transfer .str c ⟨false, u, true⟩ rn rd (.shifted amt sh rm)
  | .ldrImmPre c u w rn rd off => .transfer .ldr c ⟨true, u, w⟩ rn rd (.imm (off.setWidth 32))
  | .ldrImmPost c u rn rd off => .transfer .ldr c ⟨false, u, false⟩ rn rd (.imm (off.setWidth 32))
  | .ldrtImm c u rn rd off => .transfer .ldr c ⟨false, u, true⟩ rn rd (.imm (off.setWidth 32))
  | .ldrRegPre c u w rn rd amt sh rm => .transfer .ldr c ⟨true, u, w⟩ rn rd (.shifted amt sh rm)
  | .ldrRegPost c u rn rd amt sh rm => .transfer .ldr c ⟨false, u, false⟩ rn rd (.shifted amt sh rm)
  | .ldrtReg c u rn rd amt sh rm => .transfer .ldr c ⟨false, u, true⟩ rn rd (.shifted amt sh rm)
  | .strbImmPre c u w rn rd off => .transfer .strb c ⟨true, u, w⟩ rn rd (.imm (off.setWidth 32))
  | .strbImmPost c u rn rd off => .transfer .strb c ⟨false, u, false⟩ rn rd (.imm (off.setWidth 32))
  | .strbtImm c u rn rd off => .transfer .strb c ⟨false, u, true⟩ rn rd (.imm (off.setWidth 32))
  | .strbRegPre c u w rn rd amt sh rm => .transfer .strb c ⟨true, u, w⟩ rn rd (.shifted amt sh rm)
  | .strbRegPost c u rn rd amt sh rm => .transfer .strb c ⟨false, u, false⟩ rn rd (.shifted amt sh rm)
  | .strbtReg c u rn rd amt sh rm => .transfer .strb c ⟨false, u, true⟩ rn rd (.shifted amt sh rm)
  | .ldrbImmPre c u w rn rd off => .transfer .ldrb c ⟨true, u, w⟩ rn rd (.imm (off.setWidth 32))
  | .ldrbImmPost c u rn rd off => .transfer .ldrb c ⟨false, u, false⟩ rn rd (.imm (off.setWidth 32))
  | .ldrbtImm c u rn rd off => .transfer .ldrb c ⟨false, u, true⟩ rn rd (.imm (off.setWidth 32))
  | .ldrbRegPre c u w rn rd amt sh rm => .transfer .ldrb c ⟨true, u, w⟩ rn rd (.shifted amt sh rm)
  | .ldrbRegPost c u rn rd amt sh rm => .transfer .ldrb c ⟨false, u, false⟩ rn rd (.shifted amt sh rm)
  | .ldrbtReg c u rn rd amt sh rm => .transfer .ldrb c ⟨false, u, true⟩ rn rd (.shifted amt sh rm)
  | .und c hi lo => .undefArm c (undWord c hi lo)
  | .ldmia c ub w rn list => .block true .ia c ub w rn list
  | .stmia c ub w rn list => .block false .ia c ub w rn list
  | .ldmib c ub w rn list => .block true .ib c ub w rn list
  | .stmib c ub w rn list => .block false .ib c ub w rn list
  | .ldmda c ub w rn list => .block true .da c ub w rn list
  | .stmda c ub w rn list => .block false .da c ub w rn list
  | .ldmdb c ub w rn list => .block true .db c ub w rn list
  | .stmdb c ub w rn list => .block false .db c ub w rn list
  | .b c off => .branch c false off
  | .bl c off => .branch c true off
  | .stc c ix rn crd cp off => .undefArm c (coprocTransferWord c false ix rn crd cp off)
  | .ldc c ix rn crd cp off => .undefArm c (coprocTransferWord c true ix rn crd cp off)
  | .cdp c op1 crn crd cp op2 crm => .undefArm c (coprocOpWord c op1 crn crd cp op2 crm)
  | .mcr c op1 crn rd cp op2 crm => .undefArm c (coprocRegWord c false op1 crn rd cp op2 crm)
  | .mrc c op1 crn rd cp op2 crm => .undefArm c (coprocRegWord c true op1 crn rd cp op2 crm)
  | .swi c comment => .swi c comment
  | .tLslImm off rs rd => .tShift .lsl (.imm off) rs rd
  | .tLsrImm off rs rd => .tShift .lsr (.imm off) rs rd
  | .tAsrImm off rs rd => .tShift .asr (.imm off) rs rd
  | .tAddReg rn rs rd => .tAlu .add rd (.reg rs) (.reg rn)
  | .tSubReg rn rs rd => .tAlu .sub rd (.reg rs) (.reg rn)
  | .tAddImm3 imm rs rd => .tAlu .add rd (.reg rs) (.imm (imm.setWidth 32))
  | .tSubImm3 imm rs rd => .tAlu .sub rd (.reg rs) (.imm (imm.setWidth 32))
  | .tMovImm8 rd imm => .tAlu .mov rd (.reg rd) (.imm (imm.setWidth 32))
  | .tCmpImm8 rd imm => .tAlu .cmp rd (.reg rd) (.imm (imm.setWidth 32))
  | .tAddImm8 rd imm => .tAlu .add rd (.reg rd) (.imm (imm.setWidth 32))
  | .tSubImm8 rd imm => .tAlu .sub rd (.reg rd) (.imm (imm.setWidth 32))
  | .tAnd rs rd => .tAlu .and rd (.reg rd) (.reg rs)
  | .tEor rs rd => .tAlu .eor rd (.reg rd) (.reg rs)
  | .tLslReg rs rd => .tShift .lsl (.reg rs) rd rd
  | .tLsrReg rs rd => .tShift .lsr (.reg rs) rd rd
  | .tAsrReg rs rd => .tShift .asr (.reg rs) rd rd
  | .tAdc rs rd => .tAlu .adc rd (.reg rd) (.reg rs)
  | .tSbc rs rd => .tAlu .sbc rd (.reg rd) (.reg rs)
  | .tRorReg rs rd => .tShift .ror (.reg rs) rd rd
  | .tTst rs rd => .tAlu .tst rd (.reg rd) (.reg rs)
  | .tNeg rs rd => .tAlu .sub rd (.imm 0#32) (.reg rs)
  | .tCmpReg rs rd => .tAlu .cmp rd (.reg rd) (.reg rs)
  | .tCmn rs rd => .tAlu .cmn rd (.reg rd) (.reg rs)
  | .tOrr rs rd => .tAlu .orr rd (.reg rd) (.reg rs)
  | .tMul rs rd => .tMul rs rd
  | .tBic rs rd => .tAlu .bic rd (.reg rd) (.reg rs)
  | .tMvn rs rd => .tAlu .mvn rd (.reg rd) (.reg rs)
  | .tAddHi m d => .tHi .add m d
  | .tCmpHi m d => .tHi .cmp m d
  | .tMovHi m d => .tHi .mov m d
  | .tBx m _ => .tBx m
  | .tLdrPc rd imm => .tTransfer .ldr rd (.pc imm)
  | .tStrReg ro rb rd => .tTransfer .str rd (.regs ro rb)
  | .tStrbReg ro rb rd => .tTransfer .strb rd (.regs ro rb)
  | .tLdrReg ro rb rd => .tTransfer .ldr rd (.regs ro rb)
  | .tLdrbReg ro rb rd => .tTransfer .ldrb rd (.regs ro rb)
  | .tStrhReg ro rb rd => .tTransfer .strh rd (.regs ro rb)
  | .tLdsbReg ro rb rd => .tTransfer .ldrsb rd (.regs ro rb)
  | .tLdrhReg ro rb rd => .tTransfer .ldrh rd (.regs ro rb)
  | .tLdshReg ro rb rd => .tTransfer .ldrsh rd (.regs ro rb)
  | .tStrOff off rb rd => .tTransfer .str rd (.off 2 off rb)
  | .tLdrOff off rb rd => .tTransfer .ldr rd (.off 2 off rb)
  | .tStrbOff off rb rd => .tTransfer .strb rd (.off 0 off rb)
  | .tLdrbOff off rb rd => .tTransfer .ldrb rd (.off 0 off rb)
  | .tStrhOff off rb rd => .tTransfer .strh rd (.off 1 off rb)
  | .tLdrhOff off rb rd => .tTransfer .ldrh rd (.off 1 off rb)
  | .tStrSp rd imm => .tTransfer .str rd (.sp imm)
  | .tLdrSp rd imm => .tTransfer .ldr rd (.sp imm)
  | .tAddPc rd imm => .tAddress false rd imm
  | .tAddSp rd imm => .tAddress true rd imm
  | .tAdjustSp sub imm => .tAdjustSp sub imm
  | .tPush r list => .tPush r list
  | .tPop r list => .tPop r list
  | .tStmia rb list => .tBlock false rb list
  | .tLdmia rb list => .tBlock true rb list
  | .tBeq off => .tBranchIf .eq off
  | .tBne off => .tBranchIf .ne off
  | .tBcs off => .tBranchIf .cs off
  | .tBcc off => .tBranchIf .cc off
  | .tBmi off => .tBranchIf .mi off
  | .tBpl off => .tBranchIf .pl off
  | .tBvs off => .tBranchIf .vs off
  | .tBvc off => .tBranchIf .vc off
  | .tBhi off => .tBranchIf .hi off
  | .tBls off => .tBranchIf .ls off
  | .tBge off => .tBranchIf .ge off
  | .tBlt off => .tBranchIf .lt off
  | .tBgt off => .tBranchIf .gt off
  | .tBle off => .tBranchIf .le off
  | .tUnd low => .tUnd low
  | .tSwi value => .tSwi value
  | .tB off => .tB off
  | .tBlPrefix off => .tBl false off
  | .tBlSuffix off => .tBl true off

/-- The condition of an ARM instruction (R410); Thumb instructions have none. -/
def Shape.cond? : Shape → Option Cond
  | .dataProc _ c .. | .multiply c .. | .longMultiply _ _ c .. | .mrs c .. | .msr c .. | .bx c .. | .branch c .. | .swap _ _ c ..
  | .transfer _ c .. | .block _ _ c .. | .undefArm c .. | .swi c .. => some c
  | .tShift .. | .tAlu .. | .tMul .. | .tHi .. | .tBx .. | .tAddress .. | .tAdjustSp .. | .tTransfer .. | .tPush .. | .tPop ..
  | .tBlock .. | .tBranchIf .. | .tUnd .. | .tSwi .. | .tB .. | .tBl .. => none

/-- The registers an ARM instruction reads or writes in the current bank (R972). -/
def Shape.regs : Shape → List RegNum
  | .dataProc op _ _ rn rd o => (if op.ignoresRn then [] else [rn]) ++ (if op.isCompare then [] else [rd]) ++ o.regs
  | .multiply _ _ rd acc rs rm => [rd, rs, rm] ++ acc.toList
  | .longMultiply _ _ _ _ rdHi rdLo rs rm => [rdHi, rdLo, rs, rm]
  | .mrs _ _ rd => [rd]
  | .msr _ _ _ o => o.regs
  | .bx _ rm => [rm]
  | .branch _ link _ => if link then [14#4] else []
  | .swap _ _ _ rn rd rm => [rn, rd, rm]
  | .transfer _ _ _ rn rd o => [rn, rd] ++ o.reg?.toList
  | .block load _ _ ub _ rn list => rn :: (if ub && !(load && list.getLsbD 15) then [] else regList list)
  | _ => []

/-- The instruction starts: its condition passes (R410), and it is not the hazard of R972 (a banked register right after a
User-bank LDM), unless `arm7tdmiAlt` gives that case its alternative. -/
def Starts (sh : Shape) (s : State) : Prop :=
  (∀ c, sh.cond? = some c → condHolds c s.cpsr = true) ∧
    (s.params.arm7tdmiAlt = true ∨ (sh.cond?.isSome && s.afterUserLdm && sh.regs.any s.cpsr.m.banks) = false)

/-- The transfers of addressing mode 2: word and unsigned byte (R600). -/
def Transfer.isMode2 : Transfer → Bool
  | .ldr | .str | .ldrb | .strb => true
  | _ => false

/-- A case of 93 section 1 with no alternative arises from the encoding alone ("fault always"): MrsPc, MsrPc, MulPc,
MullRdHiEqRdLo, MullPc, SwpPc, WbPc, LoadBytePc, LoadHalfPc, ThumbEmptyRegList. -/
def Shape.alwaysFaults : Shape → Bool
  | .multiply _ _ rd acc rs rm => rd = 15#4 || rs = 15#4 || rm = 15#4 || acc = some 15#4
  | .longMultiply _ _ _ _ rdHi rdLo rs rm => rdHi = rdLo || rdHi = 15#4 || rdLo = 15#4 || rs = 15#4 || rm = 15#4
  | .mrs _ _ rd => rd = 15#4
  | .msr _ _ _ o => o.regs.contains 15#4
  | .swap _ _ _ rn rd rm => rn = 15#4 || rd = 15#4 || rm = 15#4
  | .transfer t _ x rn rd _ => (rn = 15#4 && x.writesBack) || (t.isLoad && t ≠ .ldr && rd = 15#4)
  | .tPush r list => list = 0#8 && !r
  | .tPop r list => list = 0#8 && !r
  | .tBlock _ _ list => list = 0#8
  | _ => false

/-- A case of 93 section 1 with an ARM7TDMI alternative arises from the encoding and the mode: RegShiftRsPc, RegShiftRnPc,
RegShiftRdPc, MulRdEqRm, MullRdEqRm, NoSpsr of MRS and MSR, LoadWbRdEqRn, StoreWbRdEqRn, OffsetRmPc, WbRmEqRn, StorePcNarrow,
SwpBaseOverlap, LdmWbBaseInList, StmWbBaseNotLowest, EmptyRegList, UserBankWb, UserBankInUserMode, ThumbCmpPc,
ThumbHiOpBothLow. (PcMisalignedArm, the misaligned halfwords and the NoSpsr of a return depend on values.) -/
def Shape.altCase (sh : Shape) (s : State) : Bool :=
  match sh with
  | .dataProc op _ _ rn rd (.shiftReg rs _ _) =>
    rs = 15#4 || (rn = 15#4 && !op.ignoresRn) || (rd = 15#4 && !op.isCompare)
  | .multiply _ _ rd _ _ rm => rd = rm
  | .longMultiply _ _ _ _ rdHi rdLo _ rm => rdHi = rm || rdLo = rm
  | .mrs _ spsr _ => spsr && !s.cpsr.m.hasSpsr
  | .msr _ spsr _ _ => spsr && !s.cpsr.m.hasSpsr
  | .swap _ _ _ rn rd rm => rn = rd || rn = rm
  | .transfer t _ x rn rd o =>
    o.reg? = some 15#4 || (rd = rn && x.writesBack) || (t.isMode2 && o.reg? = some rn && x.writesBack) ||
      ((t = .strb || t = .strh) && rd = 15#4)
  | .block load _ _ ub w rn list =>
    list = 0#16 || (w && list.getLsbD rn.toNat && (load || (regList list).head? ≠ some rn)) ||
      (ub && !(load && list.getLsbD 15) && (w || !s.cpsr.m.hasSpsr))
  | .tMul rs rd => rd = rs
  | .tHi op m d => (decide (m.toNat < 8) && decide (d.toNat < 8)) || (op = .cmp && (m = 15#4 || d = 15#4))
  | .tBlock load rb list => !load && list.getLsbD rb.toNat && (lowList list).head? ≠ some rb.num
  | _ => false

/-- The instruction is given an effect (R14): no "fault always" case, and no case with an alternative unless `arm7tdmiAlt`. -/
def Permits (sh : Shape) (s : State) : Prop :=
  sh.alwaysFaults = false ∧ (s.params.arm7tdmiAlt = true ∨ sh.altCase s = false)

/-- A write of R15 in ARM state is given an effect: the target is a multiple of 4, or `arm7tdmiAlt` (R107). -/
def TargetOk (v : Word) (s : State) : Prop := s.params.arm7tdmiAlt = true ∨ v &&& 3#32 = 0#32

/-! ### Results and flags as exact arithmetic -/

/-- The result of an addition with carry-in, modulo 2^32 (R430). -/
def addResult (a b : Word) (cin : Bool) : Word := a + b + if cin then 1#32 else 0#32

/-- Carry out of an addition: the exact unsigned sum is 2^32 or more (R430). -/
def addCarry (a b : Word) (cin : Bool) : Bool := decide (2 ^ 32 ≤ a.toNat + b.toNat + cin.toNat)

/-- Overflow of an addition: the exact signed sum is no 32-bit signed number (R430). -/
def addOverflow (a b : Word) (cin : Bool) : Bool :=
  decide (a.toInt + b.toInt + cin.toNat < -2 ^ 31) || decide (2 ^ 31 ≤ a.toInt + b.toInt + cin.toNat)

/-- The result of a subtraction with borrow-in, modulo 2^32 (R431). -/
def subResult (a b : Word) (bin : Bool) : Word := a - b - if bin then 1#32 else 0#32

/-- Carry of a subtraction: no borrow out of the exact unsigned difference (R431). -/
def subCarry (a b : Word) (bin : Bool) : Bool := decide (b.toNat + bin.toNat ≤ a.toNat)

/-- Overflow of a subtraction: the exact signed difference is no 32-bit signed number (R431). -/
def subOverflow (a b : Word) (bin : Bool) : Bool :=
  decide (a.toInt - b.toInt - bin.toNat < -2 ^ 31) || decide (2 ^ 31 ≤ a.toInt - b.toInt - bin.toNat)

/-- The result of a data-processing opcode (R460 to R475): `a` is Rn, `b` the shifter operand, `c` CPSR.C. -/
def dpValue (op : DpOp) (a b : Word) (c : Bool) : Word :=
  match op with
  | .and | .tst => a &&& b
  | .eor | .teq => a ^^^ b
  | .sub | .cmp => subResult a b false
  | .rsb => subResult b a false
  | .add | .cmn => addResult a b false
  | .adc => addResult a b c
  | .sbc => subResult a b (!c)
  | .rsc => subResult b a (!c)
  | .orr => a ||| b
  | .mov => b
  | .bic => a &&& ~~~b
  | .mvn => ~~~b

/-- C after a flag-setting opcode (R430 to R432): `sc` is the shifter carry. -/
def dpCarry (op : DpOp) (a b : Word) (c sc : Bool) : Bool :=
  match op with
  | .sub | .cmp => subCarry a b false
  | .rsb => subCarry b a false
  | .add | .cmn => addCarry a b false
  | .adc => addCarry a b c
  | .sbc => subCarry a b (!c)
  | .rsc => subCarry b a (!c)
  | .and | .tst | .eor | .teq | .orr | .mov | .bic | .mvn => sc

/-- V after a flag-setting opcode (R430 to R432): `v` is V before. -/
def dpOverflow (op : DpOp) (a b : Word) (c v : Bool) : Bool :=
  match op with
  | .sub | .cmp => subOverflow a b false
  | .rsb => subOverflow b a false
  | .add | .cmn => addOverflow a b false
  | .adc => addOverflow a b c
  | .sbc => subOverflow a b (!c)
  | .rsc => subOverflow b a (!c)
  | .and | .tst | .eor | .teq | .orr | .mov | .bic | .mvn => v

/-- The CPSR after a flag-setting opcode: N, Z of the result, C, V; the other fields kept. -/
def dpFlags (op : DpOp) (a b : Word) (sc : Bool) (p : Cpsr) : Cpsr :=
  { p with
    n := (dpValue op a b p.c).getLsbD 31
    z := decide (dpValue op a b p.c = 0#32)
    c := dpCarry op a b p.c sc
    v := dpOverflow op a b p.c p.v }

/-- The operand of a Thumb ALU instruction. -/
def TArg.value (s : State) : TArg → Word
  | .reg r => s.bankReg s.cpsr.m r.num
  | .imm v => v

/-- The address of a Thumb single transfer (R750 to R767). -/
def TAddr.value (s : State) : TAddr → Word
  | .pc imm => ((s.pc + 4) &&& 0xFFFFFFFC#32) + imm.setWidth 32 * 4
  | .sp imm => s.bankReg s.cpsr.m 13#4 + imm.setWidth 32 * 4
  | .regs ro rb => s.bankReg s.cpsr.m rb.num + s.bankReg s.cpsr.m ro.num
  | .off scale n rb => s.bankReg s.cpsr.m rb.num + n.setWidth 32 * BitVec.ofNat 32 (2 ^ scale)

/-- A target of a write of R15, aligned for the state it branches to (R107). -/
def alignTarget (thumb : Bool) (v : Word) : Word := if thumb then v &&& 0xFFFFFFFE#32 else v &&& 0xFFFFFFFC#32

/-! ### The bytes of the address space -/

/-- What a byte of the savedata unit reads as, where a byte load of it is served (R800, R811). -/
def saveByte (p : Params) (x : Save) (o : Nat) : Option Byte :=
  match p.saveKind with
  | .sram => if o < p.sramSize then some (x.buffer.read o) else none
  | .flash64 | .flash128 => some (flashLoad8 p.saveKind x o)
  | .eeprom => none

/-- The byte a load of one byte at this address returns; none in the I/O region (a draw), at an unmapped address, for a
byte nothing has written, and where the unit serves no byte loads. -/
def State.byteAt (s : State) (a : Word) : Option Byte :=
  match classify s.params a with
  | some (.ram, k) | some (.rom, k) => s.mem.read k
  | some (.palette, o) => if o < s.params.paletteSize then some (Memory.readZ s.proxy.palette o) else none
  | some (.vram, o) => if o < s.params.vramSize then some (Memory.readZ s.proxy.vram o) else none
  | some (.oam, o) => if o < s.params.oamSize then some (Memory.readZ s.proxy.oam o) else none
  | some (.save, o) => saveByte s.params s.save o
  | some (.io, _) | none => none

/-- A store of width `w` at `a` may change the byte at `b`: `b`'s place lies in the bytes stored (or, for a byte store with
`proxyByteStore` = `mirrorHalfword`, in the halfword written); a store to Flash or EEPROM may change any byte of the chip
(R820, R833); a store to ROM or to the I/O region changes none (R202). -/
def Touches (p : Params) (w : Width) (a b : Word) : Prop :=
  match classify p a, classify p b with
  | some (r, o), some (r', o') =>
    sharedRegion r = sharedRegion r' ∧ r ≠ .rom ∧ r ≠ .io ∧
      ((o ≤ o' ∧ o' < o + w.bytes) ∨ (r = .save ∧ p.saveKind ≠ .sram) ∨
        (p.proxyByteStore = .mirrorHalfword ∧ (r = .palette ∨ r = .vram) ∧ w = .byte ∧ o' / 2 = o / 2))
  | _, _ => False

/-- The fields no instruction but a store, a load with a side effect or a service call changes. -/
structure SameRest (s t : State) : Prop where
  params : t.params = s.params
  cycles : t.cycles = s.cycles
  irqLine : t.irqLine = s.irqLine
  dma3Count : t.dma3Count = s.dma3Count
  dma3Enable : t.dma3Enable = s.dma3Enable
  schedule : t.schedule = s.schedule
  outputs : t.outputs = s.outputs

/-! ### What an instruction may write -/

/-- The access size of a transfer (R220). -/
def Transfer.width : Transfer → Width
  | .ldrb | .ldrsb | .strb => .byte
  | .ldrh | .ldrsh | .strh => .half
  | .ldr | .str => .word

/-- The address a store of this kind writes at (R212, R214, R216). -/
def Transfer.storeAddress (t : Transfer) (a : Word) : Word :=
  match t.width with
  | .byte => a
  | .half => alignHalf a
  | .word => alignWord a

/-- The aligned addresses of the `n` words of a block transfer (R651, R215). -/
def blockAddresses (start : Word) (n : Nat) : List Word :=
  (List.range n).map (fun k => alignWord (start + BitVec.ofNat 32 (4 * k)))

/-- The number of registers PUSH and POP transfer (R770, R771). -/
def stackCount (r : Bool) (list : BitVec 8) : Nat := (lowList list).length + r.toNat

/-- The stores an instruction performs where it runs: the width and the address of each, the address computed by the
functions its meaning uses. An external SWI service may store anywhere and is not listed (R915). -/
def Shape.storesTo (sh : Shape) (s : State) : List (Width × Word) :=
  match sh with
  | .transfer t _ x rn _ o =>
    if t.isLoad then [] else [(t.width, t.storeAddress (x.address (s.x 8 rn) (o.eval s)))]
  | .swap _ store _ rn _ _ => [(store.width, store.storeAddress (s.x 8 rn))]
  | .block load bm _ _ _ rn list =>
    if load then []
    else (blockAddresses (bm.start (s.x 8 rn) (blockCount list)) (if list = 0#16 then 1 else (regList list).length)).map
      (fun a => (.word, a))
  | .tTransfer t _ a => if t.isLoad then [] else [(t.width, t.storeAddress (a.value s))]
  | .tPush r list =>
    (blockAddresses (s.bankReg s.cpsr.m 13#4 - BitVec.ofNat 32 (4 * stackCount r list)) (stackCount r list)).map
      (fun a => (.word, a))
  | .tBlock load rb list =>
    if load then []
    else (blockAddresses (s.bankReg s.cpsr.m rb.num) (lowList list).length).map (fun a => (.word, a))
  | _ => []

/-- The instruction may call the external SWI service (R915). -/
def Shape.callsService (sh : Shape) (s : State) : Bool :=
  match sh with
  | .swi .. | .tSwi .. => s.params.swiMode == .external
  | _ => false

/-- The bank a block transfer moves (R660): the User bank with S = 1, but for a load of R15. -/
def blockBank (load ub : Bool) (list : BitVec 16) (m : Mode) : Mode := if ub && !(load && list.getLsbD 15) then .usr else m

/-- The registers an instruction may write where it runs, each as a mode names it: its destinations, an updated base, the
link registers. R15 is not meant by a 15 here: its write is the pc's. -/
def Shape.writes (sh : Shape) (s : State) : List (Mode × RegNum) :=
  let m := s.cpsr.m
  match sh with
  | .dataProc op _ _ _ rd _ => if op.isCompare then [] else [(m, rd)]
  | .multiply _ _ rd _ _ _ => [(m, rd)]
  | .longMultiply _ _ _ _ rdHi rdLo _ _ => [(m, rdHi), (m, rdLo)]
  | .mrs _ _ rd => [(m, rd)]
  | .branch _ link _ => if link then [(m, 14#4)] else []
  | .swap _ _ _ _ rd _ => [(m, rd)]
  | .transfer t _ x rn rd _ => (if t.isLoad then [(m, rd)] else []) ++ (if x.writesBack then [(m, rn)] else [])
  | .block load _ _ ub w rn list =>
    (if load then (regList list).map (fun r => (blockBank load ub list m, r)) else []) ++ (if w then [(m, rn)] else [])
  | .undefArm .. | .tUnd .. => [(.und, 14#4)]
  | .swi .. | .tSwi .. =>
    match s.params.swiMode with
    | .trap => [(.svc, 14#4)]
    | .external => [(m, 0#4), (m, 1#4), (m, 2#4), (m, 3#4)]
  | .tShift _ _ _ rd => [(m, rd.num)]
  | .tAlu op rd _ _ => if op.isCompare then [] else [(m, rd.num)]
  | .tMul _ rd => [(m, rd.num)]
  | .tHi op _ d => if op = .cmp then [] else [(m, d)]
  | .tAddress _ rd _ => [(m, rd.num)]
  | .tAdjustSp .. | .tPush .. => [(m, 13#4)]
  | .tTransfer t rd _ => if t.isLoad then [(m, rd.num)] else []
  | .tPop _ list => (m, 13#4) :: (lowList list).map (fun r => (m, r))
  | .tBlock load rb list => (m, rb.num) :: (if load then (lowList list).map (fun r => (m, r)) else [])
  | .tBl .. => [(m, 14#4)]
  | .msr .. | .bx .. | .tBx .. | .tBranchIf .. | .tB .. => []

/-- The instruction may write the CPSR: the flag-setting forms, MSR to the CPSR, BX, the returns and the exceptions. -/
def Shape.writesCpsr (sh : Shape) (s : State) : Bool :=
  match sh with
  | .dataProc _ _ f .. => f
  | .multiply _ f .. => f
  | .longMultiply _ _ _ f .. => f
  | .msr _ spsr _ _ => !spsr
  | .block load _ _ ub _ _ list => load && ub && list.getLsbD 15
  | .swi .. | .tSwi .. => s.params.swiMode == .trap
  | .tHi op _ _ => op == .cmp
  | .bx .. | .tBx .. | .undefArm .. | .tUnd .. | .tShift .. | .tAlu .. | .tMul .. => true
  | _ => false

/-- The instruction may write an SPSR: MSR to the SPSR and the exceptions. -/
def Shape.writesSpsr (sh : Shape) (s : State) : Bool :=
  match sh with
  | .msr _ spsr _ _ => spsr
  | .undefArm .. | .tUnd .. => true
  | .swi .. | .tSwi .. => s.params.swiMode == .trap
  | _ => false

/-! ### The invariant -/

/-- The pc is aligned for the state it is in (R210). -/
def State.pcAligned (s : State) : Bool := s.pc &&& (if s.cpsr.t then 1#32 else 3#32) == 0#32

/-- A copied scanline record in canonical form (R142, R862). -/
def ScanRecord.wf (p : Params) (r : ScanRecord) : Bool :=
  Assoc.sorted r.regs && r.palette.all (Memory.wfZ p.paletteSize) && r.oam.all (Memory.wfZ p.oamSize) &&
    r.vram.all (fun e => Memory.wfZ p.vramSize e.2)

/-- A posted message in canonical form. -/
def WorkerMsg.wf (p : Params) : WorkerMsg → Bool
  | .finish q _ => q.all (ScanRecord.wf p)
  | _ => true

/-- The render proxy in canonical form: no byte beyond a region's size; the queue empty while frames are skipped (R865). -/
def Proxy.wf (p : Params) (x : Proxy) : Bool :=
  Memory.wfZ p.paletteSize x.palette && Memory.wfZ p.vramSize x.vram && Memory.wfZ p.oamSize x.oam &&
    Assoc.sorted x.dirtyRegs && x.dirtyRegs.all (fun e => p.videoRegs.contains e.1) && rising x.dirtyVram &&
    x.queue.all (ScanRecord.wf p) && x.posted.all (WorkerMsg.wf p) && (!x.skipFrame || x.queue.isEmpty)

/-- The savedata unit: the buffer in canonical form, bank 1 only in a 128 KiB Flash (R822), an EEPROM width of 0, 6 or 14
(R832). -/
def Save.wf (p : Params) (x : Save) : Bool :=
  x.buffer.wf && (p.saveKind == .flash128 || x.flash.bank == 0) &&
    (x.eeprom.addressBits == 0 || x.eeprom.addressBits == 6 || x.eeprom.addressBits == 14)

/-- An event whose data the host gives in canonical form: images without redundant bytes, a snapshot's pc aligned. -/
def HostEvent.wf : HostEvent → Bool
  | .replace pal vr oa => pal.wf && vr.wf && oa.wf
  | .defrost x => x.palette.wf && x.vram.wf && x.oam.wf && (x.pc &&& (if x.cpsr.t then 1#32 else 3#32) == 0#32)
  | _ => true

/-- A turn whose event is one (`HostEvent.wf`). -/
def Turn.wf : Turn → Bool
  | .cpu => true
  | .host e => e.wf

/-- The invariant every step keeps. The first clause is about the parameters, which no step changes: the region sizes are
even, so that a halfword never ends beyond a region (log 35). -/
structure State.Inv (s : State) : Prop where
  sizes : s.params.paletteSize % 2 = 0 ∧ s.params.vramSize % 2 = 0
  pc : s.pcAligned = true
  mem : Memory.wf s.mem = true
  save : Save.wf s.params s.save = true
  proxy : Proxy.wf s.params s.proxy = true
  schedule : s.schedule.all Turn.wf = true

end Sys2Proof.Machine
end

