-- ==== Sys2Proof/Certificates/Slice0/Obligations.lean ====
section
/-! DEFINITION. The statements for the provers, from the spec's numbered rules. In the per-instruction statements `shapeOf i`
names the instructions a statement is about (Safety.lean lists every row's shape), `Starts` says that its condition passes
and it is no banked access right after a User-bank LDM, `Permits` that none of its register choices is an UNPREDICTABLE case
without an effect. -/

open Sys2Proof Sys2Proof.Machine

/-! ### Encoding -/

/-- Decoding the encoding of any instruction gives the instruction back: no bit of an encoding is dropped
(R300 to R303, R340, R375). -/
def Obligations.EncodeDecode : Prop := ∀ i : Instr, decode (encode i) = some i

/-- Every word that decodes is the encoding of what it decodes to: each word has one meaning (R301, R370, R372). -/
def Obligations.DecodeEncode : Prop := ∀ (k : Code) (i : Instr), decode k = some i → encode i = k

/-- A few words of the spec's examples decode to the instruction they stand for (95 sections 2 and 3). -/
def Obligations.SpecWords : Prop :=
  decodeArm 0xE0910002#32 = some (.addShiftImm .al true 1#4 0#4 0#5 .lsl 2#4) ∧
  decodeArm 0xE0000291#32 = some (.mul .al false 0#4 0#4 2#4 1#4) ∧
  decodeArm 0xE321F01F#32 = some (.msrImm .al false 1#4 0#4 0x1F#8) ∧
  decodeArm 0xE8FD8001#32 = some (.ldmia .al true true 13#4 0x8001#16) ∧
  decodeArm 0xEAFFFFFE#32 = some (.b .al 0xFFFFFE#24) ∧
  decodeArm 0xE1020091#32 = some (.swp .al 2#4 0#4 1#4) ∧
  decodeArm 0xEF060000#32 = some (.swi .al 0x060000#24) ∧
  decodeArm 0xE12FFF30#32 = none ∧
  decodeThumb 0xB501#16 = some (.tPush true 1#8) ∧
  decodeThumb 0x4348#16 = some (.tMul 1#3 0#3) ∧
  decodeThumb 0xF87E#16 = some (.tBlSuffix 0x7E#11) ∧
  decodeThumb 0xE800#16 = none

/-- The unallocated space. An ARM word has no row exactly when it is in one of the classes (a) to (g) of R371, whatever its
condition field; with the condition field 1111 such a word is the case of R412, not the undefined instruction. A Thumb halfword
has no row exactly in the five ranges of R372, and is the row UND exactly from 0xDE00 to 0xDEFF. -/
def Obligations.UnallocatedSpace : Prop :=
  (∀ w : Word, decodeArm w = none ↔
    (field w 23 5 = 0b00010#5 ∧ bitAt w 20 = false ∧ field w 4 4 ≠ 0b1011#4 ∧ field w 4 4 ≠ 0b1101#4 ∧
      field w 4 4 ≠ 0b1111#4 ∧ w &&& 0x0FBF0FFF#32 ≠ 0x010F0000#32 ∧ w &&& 0x0FB0FFF0#32 ≠ 0x0120F000#32 ∧
      w &&& 0x0FFFFFF0#32 ≠ 0x012FFF10#32 ∧ w &&& 0x0FB00FF0#32 ≠ 0x01000090#32) ∨
    (field w 23 5 = 0b00110#5 ∧ field w 20 2 = 0b00#2) ∨
    (field w 23 5 = 0b00110#5 ∧ field w 20 2 = 0b10#2 ∧ field w 12 4 ≠ 0b1111#4) ∨
    (field w 24 4 = 0b0000#4 ∧ field w 22 2 = 0b01#2 ∧ field w 4 4 = 0b1001#4) ∨
    (field w 23 5 = 0b00010#5 ∧ field w 4 4 = 0b1001#4 ∧ (field w 20 2 ≠ 0b00#2 ∨ field w 8 4 ≠ 0b0000#4)) ∨
    (field w 23 5 = 0b00011#5 ∧ field w 4 4 = 0b1001#4) ∨
    (field w 25 3 = 0b000#3 ∧ bitAt w 20 = false ∧ (field w 4 4 = 0b1101#4 ∨ field w 4 4 = 0b1111#4)) ∨
    (field w 25 3 = 0b000#3 ∧ bitAt w 24 = false ∧ bitAt w 21 = true ∧ bitAt w 7 = true ∧ bitAt w 4 = true ∧
      field w 5 2 ≠ 0b00#2)) ∧
  (∀ (w : Word) (s : State), decodeArm w = none → field w 28 4 = 0b1111#4 →
    (s.params.arm7tdmiAlt = false → unallocated (.arm w) s = .fault (.stop (.unpredictable .nvCondition) s)) ∧
    (s.params.arm7tdmiAlt = true → unallocated (.arm w) s = .next { s with afterUserLdm := false, pc := s.pc + 4 })) ∧
  (∀ h : Half, (∃ low, decodeThumb h = some (.tUnd low)) ↔ (0xDE00#16 ≤ h ∧ h ≤ 0xDEFF#16)) ∧
  (∀ h : Half, decodeThumb h = none ↔
    (0x4780#16 ≤ h ∧ h ≤ 0x47FF#16) ∨ (0xB100#16 ≤ h ∧ h ≤ 0xB3FF#16) ∨ (0xB600#16 ≤ h ∧ h ≤ 0xBBFF#16) ∨
      (0xBE00#16 ≤ h ∧ h ≤ 0xBFFF#16) ∨ (0xE800#16 ≤ h ∧ h ≤ 0xEFFF#16))

/-! ### The step -/

/-- A step runs the decoded instruction: on the CPU unit's turn, with no interrupt to take, a step fetches at the pc, and where
the code word decodes to `i` it is `exec` of `i` on the state the fetch leaves (R952). Where the bytes of `i` stand in RAM or
ROM at the pc, in the instruction's own state, with no older word of the pc in the pipeline, it is `exec` of `i` at this very
state (R203, R205, R250). It is the CPU unit's turn where the schedule names it and where it names no one any more; on another
agent's turn the step is that agent's event (R10, R240; the schedule is the model's own, log 10). -/
def Obligations.StepRunsDecoded : Prop :=
  (∀ (s u s' : State) (k : Code) (i : Instr), s.nextTurn = (.cpu, u) → pendingInterrupt u = none → fetch u = .ok (k, s') →
    decode k = some i → step s = exec i s') ∧
  (∀ (s u : State) (i : Instr) (r : Region) (key : Nat), s.nextTurn = (.cpu, u) → pendingInterrupt u = none →
    u.cpsr.t = i.isThumb → classify u.params u.pc = some (r, key) → (r = .ram ∨ r = .rom) →
    (∀ (j : Nat) (b : Byte), i.bytes[j]? = some b → Memory.read u.mem (key + j) = some b) →
    racedWords u.stale u.pc = [] → step s = exec i u) ∧
  (∀ s : State, s.schedule = [] → s.nextTurn = (.cpu, s)) ∧
  (∀ (s : State) (t : Turn) (rest : List Turn), s.schedule = t :: rest →
    s.nextTurn = (t, { s with schedule := rest }) ∧
      (∀ e, t = .host e → step s = settle (hostStep e { s with schedule := rest })))

/-- A code word that matches no row is the undefined instruction (R586, R786, R907): with `undefPolicy` = trap the Undefined
exception with the link to the next instruction, with `undefPolicy` = fault the fault that names the word. -/
def Obligations.UnallocatedIsUndefined : Prop :=
  ∀ (s : State),
    (∀ (w : Word), condHolds (Cond.ofBits (field w 28 4)) s.cpsr = true →
      (s.params.undefPolicy = .trap →
        unallocated (.arm w) s = .next (takeException .undefined (s.pc + 4) s.begun)) ∧
      (s.params.undefPolicy = .fault → unallocated (.arm w) s = .fault (.stop (.undefinedInstruction w) s))) ∧
    (∀ (h : Half),
      (s.params.undefPolicy = .trap →
        unallocated (.thumb h) s = .next (takeException .undefined (s.pc + 2) s.begun)) ∧
      (s.params.undefPolicy = .fault → unallocated (.thumb h) s = .fault (.stop (.undefinedInstruction (h.setWidth 32)) s)))

/-- An ARM instruction whose condition fails, any of them, only advances the pc (R410; NV by its alternative, R412). -/
def Obligations.FailedCondition : Prop :=
  ∀ (i : Instr) (c : Cond) (s : State), (shapeOf i).cond? = some c → condHolds c s.cpsr = false →
    (c ≠ .nv ∨ s.params.arm7tdmiAlt = true) →
    exec i s = .next { s with afterUserLdm := false, pc := s.pc + 4 }

/-- Condition NV on any ARM word, allocated or not (R412): with `arm7tdmiAlt` false the fault NvCondition, with it true no
effect but the advance. -/
def Obligations.NvCondition : Prop :=
  ∀ s : State,
    (∀ i : Instr, (shapeOf i).cond? = some .nv →
      (s.params.arm7tdmiAlt = false → exec i s = .fault (.stop (.unpredictable .nvCondition) s)) ∧
      (s.params.arm7tdmiAlt = true → exec i s = .next { s with afterUserLdm := false, pc := s.pc + 4 })) ∧
    (∀ w : Word, field w 28 4 = 0b1111#4 → decodeArm w = none →
      (s.params.arm7tdmiAlt = false → unallocated (.arm w) s = .fault (.stop (.unpredictable .nvCondition) s)) ∧
      (s.params.arm7tdmiAlt = true →
        unallocated (.arm w) s = .next { s with afterUserLdm := false, pc := s.pc + 4 }))

/-- An IRQ is taken at the start of a CPU step where the line is high and CPSR.I is 0 (R910, R920, R922, R930): IRQ mode, ARM
state, I set, F and the condition flags kept, the old CPSR in SPSR_irq, R14_irq = next + 4, the pc at 0x18; no instruction
runs. -/
def Obligations.InterruptTaken : Prop :=
  ∀ s u : State, s.nextTurn = (.cpu, u) → u.params.fiqLine = false → u.irqLine = true → u.cpsr.i = false →
    step s = .next
      { u with
        regs := u.regs.set (physIndex .irq 14#4) (u.pc + 4)
        spsr := { u.spsr with irq := u.cpsr.pack }
        cpsr := { u.cpsr with m := .irq, t := false, i := true }
        pc := 0x00000018#32
        stale := [] }

/-- A requested reset is taken before anything else in the step (R930, R950, R951), whatever the lines and the instruction: by
`bootProfile`, Supervisor mode at 0 with I and F set or System mode at 0x08000000 with both clear; the savedata buffer and
`writePending` kept and the sequencers idle; the proxy cleared, the clear message posted, with its counters kept. External
memory is kept (the model's choice, log 23). -/
def Obligations.ResetFirst : Prop :=
  ∀ (s : State) (rest : List Turn), s.schedule = .host .reset :: rest →
    ∃ t, step s = .next t ∧ t.schedule = rest ∧ t.params = s.params ∧ t.cpsr.t = false ∧
      (s.params.bootProfile = .hwReset → t.pc = 0#32 ∧ t.cpsr.m = .svc ∧ t.cpsr.i = true ∧ t.cpsr.f = true) ∧
      (s.params.bootProfile = .directBoot → t.pc = 0x08000000#32 ∧ t.cpsr.m = .sys ∧ t.cpsr.i = false ∧ t.cpsr.f = false) ∧
      t.save = { s.save with flash := Flash.idle, eeprom := Eeprom.idle } ∧
      (∀ o, Memory.readZ t.proxy.palette o = 0 ∧ Memory.readZ t.proxy.vram o = 0 ∧ Memory.readZ t.proxy.oam o = 0) ∧
      t.proxy.queue = [] ∧ t.proxy.clean = true ∧ t.proxy.delay = s.proxy.delay ∧ t.proxy.skipFrame = s.proxy.skipFrame ∧
      t.proxy.currentFrame = s.proxy.currentFrame ∧ t.proxy.backing = s.proxy.backing ∧
      t.proxy.posted = s.proxy.posted ++ [.clear s.params.vramSize s.params.oamSize] ∧ t.mem = s.mem

/-- The invariant holds after reset, and at power-on with any parameters whose palette and VRAM sizes are even. -/
def Obligations.ResetInv : Prop :=
  State.reset.Inv ∧ ∀ p : Params, p.paletteSize % 2 = 0 ∧ p.vramSize % 2 = 0 → (State.powerOn p).Inv

/-- Every step keeps the invariant: the pc is aligned for its state, memory, the savedata buffer and the shadow regions keep
their canonical form, the Flash bank and the EEPROM width stay legal, the queue stays empty while frames are skipped (R210,
R202, R822, R832, R865). The canonical forms are the model's own (logs 7, 26), and so is that a defrosted pc is taken as it is
(log 26): the invariant asks the waiting events for an aligned one. -/
def Obligations.StepKeepsInv : Prop := ∀ s t : State, s.Inv → step s = .next t → t.Inv

/-- The state at power-on, for any parameters (R12, R150 to R153, R950). The savedata unit: sequencers idle, nothing pending,
the buffer the bytes of `initialImage` (a byte the host did not supply is free, log 6; a byte beyond the chip is kept, log 34);
the shadow regions zero, the dirty set and the queue empty, the counters 0. With `bootProfile` = hwReset: Supervisor mode, I
and F set, ARM state, the pc at 0 (the registers, N, Z, C, V and the SPSRs are the model's choice, log 2, and are not stated).
With `bootProfile` = directBoot the CPU state of R151, at power-on and after a reset of any state. `State.reset` is that
power-on with R12's defaults. (That power-on posts no message is the model's choice, log 31, and is not stated.) -/
def Obligations.ResetState : Prop :=
  (∀ p : Params,
    (State.powerOn p).params = p ∧ (State.powerOn p).mem = [] ∧
    (State.powerOn p).save.writePending = false ∧ (State.powerOn p).save.flash = ⟨0, false, .none, false, 0⟩ ∧
    (State.powerOn p).save.eeprom = ⟨.null, 0, 0, 0, 0, 0⟩ ∧
    (∀ (j : Nat) (b : Byte), p.initialImage[j]? = some b → (State.powerOn p).save.buffer.read j = b) ∧
    (∀ o, Memory.readZ (State.powerOn p).proxy.vram o = 0#8 ∧ Memory.readZ (State.powerOn p).proxy.palette o = 0#8 ∧
      Memory.readZ (State.powerOn p).proxy.oam o = 0#8) ∧
    (State.powerOn p).proxy.clean = true ∧ (State.powerOn p).proxy.queue = [] ∧ (State.powerOn p).proxy.delay = 0 ∧
    (State.powerOn p).proxy.skipFrame = false ∧ (State.powerOn p).proxy.currentFrame = 0 ∧
    (State.powerOn p).proxy.backing = none ∧
    (p.bootProfile = .hwReset →
      (State.powerOn p).cpsr.m = .svc ∧ (State.powerOn p).cpsr.i = true ∧ (State.powerOn p).cpsr.f = true ∧
      (State.powerOn p).cpsr.t = false ∧ (State.powerOn p).pc = 0#32) ∧
    (p.bootProfile = .directBoot → resetCpu (State.powerOn p) = State.powerOn p)) ∧
  (∀ s : State, s.params.bootProfile = .directBoot →
    (∀ (m : Mode) (i : RegNum), i ≠ 15#4 → (resetCpu s).bankReg m i =
      if i = 13#4 then
        match m with
        | .usr | .sys => 0x03007F00#32
        | .irq => 0x03007FA0#32
        | .svc => 0x03007FE0#32
        | .fiq | .abt | .und => 0#32
      else 0#32) ∧
    (resetCpu s).spsr = ⟨0, 0, 0, 0, 0⟩ ∧ (resetCpu s).cpsr.pack = 0x0000001F#32 ∧ (resetCpu s).pc = 0x08000000#32) ∧
  State.powerOn State.reset.params = State.reset ∧
  State.reset.params.arm7tdmiAlt = false ∧ State.reset.params.undefPolicy = .fault ∧ State.reset.params.swiMode = .trap ∧
  State.reset.params.bootProfile = .hwReset ∧ State.reset.params.route = Config.defaultRoute ∧
  State.reset.params.sramSize = 0x8000 ∧ State.reset.params.paletteSize = 0x400 ∧ State.reset.params.vramSize = 0x18000 ∧
  State.reset.params.oamSize = 0x400 ∧ State.reset.params.vramBlockShift = 13 ∧ State.reset.params.skipResume = 0 ∧
  State.reset.params.fiqLine = false

/-- A store that changes one of the two prefetched instructions leaves the word executed there a draw between the old word and
the new one; nothing else does (R250, R971). A store of the instruction at A = pc that reaches the place of the instruction at
A + W or A + 2W and changes it records the old word, and records no other address; an instruction that stores nothing records
nothing. A fetch executes the word it reads at the pc or a recorded old word of the pc, and the word it reads where none is
recorded. (A branch and an exception empty the record: the `stale := []` of their result statements. How the record is kept is
the model's reading, log 13.) -/
def Obligations.PrefetchRace : Prop :=
  (∀ (w : Width) (a v x : Word) (s t u : State), busStore w a v s = .ok u → cpuStore w a v s = .ok t →
    t = { u with stale := t.stale } ∧
    ((x = s.pc + instrStep s ∨ x = s.pc + instrStep s + instrStep s) → storeReaches s.params w a (fetchWidth s) x = true →
      peek (fetchWidth s) x s ≠ peek (fetchWidth s) x u → ⟨x, peek (fetchWidth s) x s⟩ ∈ t.stale) ∧
    (∀ e ∈ t.stale, e ∈ s.stale ∨
      (e.addr = s.pc + instrStep s ∨ e.addr = s.pc + instrStep s + instrStep s) ∧ e.old = peek (fetchWidth s) e.addr s ∧
        storeReaches s.params w a (fetchWidth s) e.addr = true)) ∧
  (∀ (i : Instr) (s t : State), exec i s = .next t →
    ((shapeOf i).storesTo s = [] → (shapeOf i).callsService s = false → ∀ e ∈ t.stale, e ∈ s.stale) ∧
    (∀ e ∈ t.stale, e ∈ s.stale ∨ e.addr = s.pc + instrStep s ∨ e.addr = s.pc + instrStep s + instrStep s)) ∧
  (∀ (s s' t : State) (k : Code) (now : Word), busLoad (fetchWidth s) s.pc s = .ok (now, s') → fetch s = .ok (k, t) →
    (∃ w : Word, k = (if s.cpsr.t then .thumb (w.setWidth 16) else .arm w) ∧
      (w = now ∨ ∃ e ∈ s.stale, e.addr = s.pc ∧ e.old = some w)) ∧
    ((∀ e ∈ s.stale, e.addr ≠ s.pc) → k = if s.cpsr.t then .thumb (now.setWidth 16) else .arm now) ∧
    (∀ e ∈ t.stale, e ∈ s.stale ∧ e.addr ≠ s.pc))

/-! ### Registers, status, exceptions -/

/-- The banked registers (R102, R103): a write of one is read back through every mode that maps to the same physical
register, and through no other. -/
def Obligations.BankedRegisters : Prop :=
  ∀ (s : State) (m m' : Mode) (i j : RegNum) (v : Word), i ≠ 15#4 → j ≠ 15#4 →
    (s.setBankReg m i v).bankReg m' j =
      if i = j ∧ m.banks i = m'.banks i ∧ (m.banks i = true → m = m') then v else s.bankReg m' j

/-- Packing the CPSR and unpacking it gives it back; the packed word holds N, Z, C, V, I, F, T, M at their places and its bits
27:8 read 0; unpacking reads those bits and drops bits 27:8 (R110, R119, R122). -/
def Obligations.CpsrPacking : Prop :=
  ∀ (p : Cpsr) (w : Word),
    Cpsr.unpack p.pack = .ok p ∧
    p.pack.extractLsb' 8 20 = 0#20 ∧ p.pack.extractLsb' 0 5 = p.m.bits ∧ p.pack.getLsbD 5 = p.t ∧ p.pack.getLsbD 6 = p.f ∧
    p.pack.getLsbD 7 = p.i ∧ p.pack.getLsbD 28 = p.v ∧ p.pack.getLsbD 29 = p.c ∧ p.pack.getLsbD 30 = p.z ∧
    p.pack.getLsbD 31 = p.n ∧
    (∀ q, Cpsr.unpack w = .ok q → q.pack = w &&& 0xF00000FF#32)

/-- The link values by state (R922): for Undefined and SWI, R14 of the mode entered is the address of the instruction after the
one that raised it, A + 4 from ARM and A + 2 from Thumb, for every instruction and unallocated word that raises them; for IRQ
and FIQ it is next + 4 in both states. The returns of R925 undo these offsets (`ExceptionRoundTrip`). -/
def Obligations.LinkValues : Prop :=
  ∀ s : State,
    (∀ (i : Instr) (t : State), exec i s = .next t →
      (∀ c n, shapeOf i = .swi c n → condHolds c s.cpsr = true → s.params.swiMode = .trap →
        t.bankReg .svc 14#4 = s.pc + 4) ∧
      (∀ n, shapeOf i = .tSwi n → s.params.swiMode = .trap → t.bankReg .svc 14#4 = s.pc + 2) ∧
      (∀ c n, shapeOf i = .undefArm c n → condHolds c s.cpsr = true → t.bankReg .und 14#4 = s.pc + 4) ∧
      (∀ n, shapeOf i = .tUnd n → t.bankReg .und 14#4 = s.pc + 2)) ∧
    (∀ (w : Word) (t : State), condHolds (Cond.ofBits (field w 28 4)) s.cpsr = true → unallocated (.arm w) s = .next t →
      t.bankReg .und 14#4 = s.pc + 4) ∧
    (∀ (h : Half) (t : State), unallocated (.thumb h) s = .next t → t.bankReg .und 14#4 = s.pc + 2) ∧
    (∀ t u : State, s.nextTurn = (.cpu, u) →
      (pendingInterrupt u = some .irq → step s = .next t → t.bankReg .irq 14#4 = u.pc + 4) ∧
      (pendingInterrupt u = some .fiq → step s = .next t → t.bankReg .fiq 14#4 = u.pc + 4))

/-- Exception entry and the spec's return from it (R920, R925): after an entry from an aligned pc the return instruction,
MOVS PC, R14 for SWI and Undefined with the next instruction as link, SUBS PC, R14, #4 for IRQ and FIQ, resumes with the pc
and the whole CPSR of the interrupted program, and every register as it was but the handler mode's R14. -/
def Obligations.ExceptionRoundTrip : Prop :=
  ∀ (s : State) (next : Word), (if s.cpsr.t then next &&& 1#32 = 0#32 else next &&& 3#32 = 0#32) →
    (∀ e, (e = .swi ∨ e = .undefined) →
      ∃ t, exec (.movShiftImm .al true 0#4 15#4 0#5 .lsl 14#4) (takeException e next s.begun) = .next t ∧
        t.pc = next ∧ t.cpsr = s.cpsr ∧ t.mem = s.mem ∧
        ∀ m i, i ≠ 15#4 → physIndex m i ≠ physIndex e.mode 14#4 → t.bankReg m i = s.bankReg m i) ∧
    (∀ e, (e = .irq ∨ e = .fiq) →
      ∃ t, exec (.subImm .al true 14#4 15#4 0#4 4#8) (takeException e (next + 4) s.begun) = .next t ∧
        t.pc = next ∧ t.cpsr = s.cpsr ∧ t.mem = s.mem ∧
        ∀ m i, i ≠ 15#4 → physIndex m i ≠ physIndex e.mode 14#4 → t.bankReg m i = s.bankReg m i)

/-- SWI (ARM and Thumb): with `swiMode` = trap it takes the SWI exception (R570, R787, R908, R920). With `swiMode` = external
(R915) the call is recorded and the service runs: it may access memory and write R0 to R3; every other register, the CPSR and
the SPSRs are unchanged, and the pc moves to the next instruction. Which accesses the service makes is a free script; the
instruction ends where they are served, and answers the fault of one that is not, with what the earlier ones did. -/
def Obligations.SwiResult : Prop :=
  ∀ (i : Instr) (s : State) (w : Word) (call : SwiCall), Starts (shapeOf i) s →
    ((∃ c n, shapeOf i = .swi c n ∧ w = 4#32 ∧ call = .swi32 n) ∨ (∃ n, shapeOf i = .tSwi n ∧ w = 2#32 ∧ call = .swi n)) →
    (s.params.swiMode = .trap →
      exec i s = .next
        { s with
          afterUserLdm := false
          regs := s.regs.set (physIndex .svc 14#4) (s.pc + w)
          spsr := { s.spsr with svc := s.cpsr.pack }
          cpsr := { s.cpsr with m := .svc, t := false, i := true }
          stale := []
          pc := 0x00000008#32 }) ∧
    (s.params.swiMode = .external →
      match runScript (Config.swiService s.draws call)
          { s with afterUserLdm := false, draws := s.draws + 1, swiCalls := s.swiCalls ++ [call] } with
      | .ok u => exec i s = .next { u with pc := s.pc + w } ∧ u.cpsr = s.cpsr ∧ u.spsr = s.spsr ∧
          u.swiCalls = s.swiCalls ++ [call] ∧
          ∀ m j, j ≠ 15#4 → (∀ k < 4, physIndex m j ≠ physIndex s.cpsr.m (BitVec.ofNat 4 k)) →
            u.bankReg m j = s.bankReg m j
      | .error (.stop r u) => exec i s = .fault (.stop r (s.leave u)))

/-- The undefined instruction and the coprocessor instructions (UND, STC, LDC, CDP, MCR, MRC, and the Thumb UND): with
`undefPolicy` = trap they take the Undefined exception (R580, R585, R786, R907, R920); with `undefPolicy` = fault they stop
with the fault that names the instruction's word. -/
def Obligations.UndefinedTraps : Prop :=
  ∀ (i : Instr) (s : State), Starts (shapeOf i) s →
    (∀ w : Word, ((∃ c n, shapeOf i = .undefArm c n ∧ w = 4#32) ∨ (∃ n, shapeOf i = .tUnd n ∧ w = 2#32)) →
      s.params.undefPolicy = .trap →
      exec i s = .next
        { s with
          afterUserLdm := false
          regs := s.regs.set (physIndex .und 14#4) (s.pc + w)
          spsr := { s.spsr with und := s.cpsr.pack }
          cpsr := { s.cpsr with m := .und, t := false, i := true }
          stale := []
          pc := 0x00000004#32 }) ∧
    (∀ c n, shapeOf i = .undefArm c n → s.params.undefPolicy = .fault →
      exec i s = .fault (.stop (.undefinedInstruction n) s) ∧ encode i = .arm n) ∧
    (∀ n, shapeOf i = .tUnd n → s.params.undefPolicy = .fault →
      ∃ h, encode i = .thumb h ∧ exec i s = .fault (.stop (.undefinedInstruction (h.setWidth 32)) s))

/-- In User mode no instruction changes the mode, I, F or an SPSR, but by taking an exception (R567, R935, R936). -/
def Obligations.UserModePrivilege : Prop :=
  ∀ (i : Instr) (s t : State), s.cpsr.m = .usr → exec i s = .next t →
    (t.cpsr.m = .usr ∧ t.cpsr.i = s.cpsr.i ∧ t.cpsr.f = s.cpsr.f ∧ t.spsr = s.spsr) ∨
    (t.cpsr.m = .svc ∧ t.pc = 0x00000008#32 ∧ t.spsr = { s.spsr with svc := s.cpsr.pack }) ∨
    (t.cpsr.m = .und ∧ t.pc = 0x00000004#32 ∧ t.spsr = { s.spsr with und := s.cpsr.pack })

/-- MRS (R560): Rd gets the packed CPSR, or the current mode's SPSR with all 32 bits; in User and System mode, which have no
SPSR, the alternative reads the CPSR. MSR to the SPSR (R565, R566): the selected bytes of the current mode's SPSR are
written, all 32 bits stored; without an SPSR the alternative has no effect but the advance. -/
def Obligations.SavedStatusResult : Prop :=
  (∀ (c : Cond) (spsr : Bool) (rd : RegNum) (s : State), Starts (.mrs c spsr rd) s → Permits (.mrs c spsr rd) s →
    exec (.mrs c spsr rd) s = .next
      { s with
        afterUserLdm := false
        regs := s.regs.set (physIndex s.cpsr.m rd) (if spsr then s.spsrNow.getD s.cpsr.pack else s.cpsr.pack)
        pc := s.pc + 4 }) ∧
  (∀ (i : Instr) (c : Cond) (mask : BitVec 4) (o : Operand2) (s : State), shapeOf i = .msr c true mask o →
    Starts (shapeOf i) s → Permits (shapeOf i) s →
    ∃ t, exec i s = .next t ∧ t = { s with afterUserLdm := false, pc := s.pc + 4, spsr := t.spsr } ∧
      (∀ m, m ≠ s.cpsr.m → t.spsr.get m = s.spsr.get m) ∧
      (s.spsrNow = none → t.spsr = s.spsr) ∧
      (∀ w, s.spsrNow = some w → ∃ w', t.spsr.get s.cpsr.m = some w' ∧
        ∀ n < 4, w'.extractLsb' (8 * n) 8 =
          if mask.getLsbD n then (o.eval s).1.extractLsb' (8 * n) 8 else w.extractLsb' (8 * n) 8))

/-- MSR to the CPSR (R565 to R567): the f byte writes N, Z, C, V; in a privileged mode the c byte writes I, F and the mode,
where it does not change T and names a mode, and stops with the fault MsrChangesT or InvalidMode where not (R118, R117); in User
mode the c byte is ignored; the x and s bytes change nothing. -/
def Obligations.MsrCpsrResult : Prop :=
  ∀ (i : Instr) (c : Cond) (mask : BitVec 4) (o : Operand2) (s : State), shapeOf i = .msr c false mask o →
    Starts (shapeOf i) s → Permits (shapeOf i) s →
    (∀ m : Mode, (s.cpsr.m ≠ .usr ∧ mask.getLsbD 0 = true →
        (o.eval s).1.getLsbD 5 = s.cpsr.t ∧ (o.eval s).1.extractLsb' 0 5 = m.bits) →
      exec i s = .next
        { s with
          afterUserLdm := false
          cpsr :=
            { n := if mask.getLsbD 3 then (o.eval s).1.getLsbD 31 else s.cpsr.n
              z := if mask.getLsbD 3 then (o.eval s).1.getLsbD 30 else s.cpsr.z
              c := if mask.getLsbD 3 then (o.eval s).1.getLsbD 29 else s.cpsr.c
              v := if mask.getLsbD 3 then (o.eval s).1.getLsbD 28 else s.cpsr.v
              i := if s.cpsr.m ≠ .usr ∧ mask.getLsbD 0 = true then (o.eval s).1.getLsbD 7 else s.cpsr.i
              f := if s.cpsr.m ≠ .usr ∧ mask.getLsbD 0 = true then (o.eval s).1.getLsbD 6 else s.cpsr.f
              t := s.cpsr.t
              m := if s.cpsr.m ≠ .usr ∧ mask.getLsbD 0 = true then m else s.cpsr.m }
          pc := s.pc + 4 }) ∧
    (s.cpsr.m ≠ .usr → mask.getLsbD 0 = true →
      ((o.eval s).1.getLsbD 5 ≠ s.cpsr.t → exec i s = .fault (.stop (.unpredictable .msrChangesT) s)) ∧
      ((o.eval s).1.getLsbD 5 = s.cpsr.t → (∀ m : Mode, (o.eval s).1.extractLsb' 0 5 ≠ m.bits) →
        exec i s = .fault (.stop (.invalidMode ((o.eval s).1.extractLsb' 0 5)) s)))

/-! ### Arithmetic -/

/-- The addition law (R430): the exact sum modulo 2^32, C its carry, V where the signs of the operands agree and differ from
the result's, which is where the exact signed sum is out of range. -/
def Obligations.AdditionLaw : Prop :=
  ∀ (a b : Word) (cin : Bool),
    (addLaw a b cin).r.toNat = (a.toNat + b.toNat + cin.toNat) % 2 ^ 32 ∧
    (addLaw a b cin).c = decide (a.toNat + b.toNat + cin.toNat > 0xFFFFFFFF) ∧
    (addLaw a b cin).v = some (a.getLsbD 31 == b.getLsbD 31 && (addLaw a b cin).r.getLsbD 31 != a.getLsbD 31) ∧
    (addLaw a b cin).v = some (decide ((addLaw a b cin).r.toInt ≠ a.toInt + b.toInt + cin.toNat)) ∧
    (∀ p : Cpsr, (p.setAlu (addLaw a b cin)).n = (addLaw a b cin).r.getLsbD 31 ∧
      (p.setAlu (addLaw a b cin)).z = decide ((addLaw a b cin).r = 0#32))

/-- The subtraction law (R431): the exact difference modulo 2^32, C not-borrow with the right side computed without wrap, V
where the exact signed difference is out of range; the same as the addition of NOT b with the carry 1 - bin. -/
def Obligations.SubtractionLaw : Prop :=
  ∀ (a b : Word) (bin : Bool),
    ((subLaw a b bin).r.toNat : Int) = ((a.toNat : Int) - b.toNat - bin.toNat) % 2 ^ 32 ∧
    (subLaw a b bin).c = decide (a.toNat ≥ b.toNat + bin.toNat) ∧
    (subLaw a b bin).v = some (a.getLsbD 31 != b.getLsbD 31 && (subLaw a b bin).r.getLsbD 31 != a.getLsbD 31) ∧
    (subLaw a b bin).v = some (decide ((subLaw a b bin).r.toInt ≠ a.toInt - b.toInt - bin.toNat)) ∧
    subLaw a b bin = addLaw a (~~~b) (!bin) ∧
    (∀ p : Cpsr, (p.setAlu (subLaw a b bin)).n = (subLaw a b bin).r.getLsbD 31 ∧
      (p.setAlu (subLaw a b bin)).z = decide ((subLaw a b bin).r = 0#32))

/-- Shifts by a register amount as integers (R405 to R408): LSL multiplies and LSR divides by 2^k, ASR divides rounding down,
for every amount 0 to 255; ROR moves bit (n + k) mod 32 to bit n; the carry is the last bit shifted out, C kept for amount 0.
Shifts by an immediate amount (R403): for 1 to 31 they are the shifts by a register amount; encoded 0 is no shift for LSL, LSR
#32, ASR #32, and RRX for ROR. The immediate operand (R402) is the byte rotated right by twice the field, its carry bit 31 of
the value, C kept for no rotation. The operand forms apply them to the registers (R400, R404, R409, R106, R322, R323): a shift
by an immediate reads Rm at A + 8, a shift by a register the low byte of Rs and Rm, both at A + 12, with CPSR.C as carry-in; a
register offset of a transfer is the shifted Rm without its carry, of a halfword transfer Rm, or the 8-bit immediate. -/
def Obligations.ShifterLaws : Prop :=
  (∀ (v : Word) (c : Bool) (k : Nat), k < 256 →
    (shiftByReg .lsl k v c).1.toNat = v.toNat * 2 ^ k % 2 ^ 32 ∧
    (shiftByReg .lsr k v c).1.toNat = v.toNat / 2 ^ k ∧
    (shiftByReg .asr k v c).1.toInt = v.toInt / 2 ^ k ∧
    (∀ n < 32, (shiftByReg .ror k v c).1.getLsbD n = v.getLsbD ((n + k) % 32)) ∧
    (∀ sh, (shiftByReg sh 0 v c) = (v, c)) ∧
    (0 < k →
      (shiftByReg .lsl k v c).2 = (decide (k ≤ 32) && v.getLsbD (32 - k)) ∧
      (shiftByReg .lsr k v c).2 = v.getLsbD (k - 1) ∧
      (shiftByReg .asr k v c).2 = v.getLsbD (min (k - 1) 31) ∧
      (shiftByReg .ror k v c).2 = v.getLsbD ((k - 1) % 32))) ∧
  (∀ (v : Word) (c : Bool) (n : BitVec 5),
    (n ≠ 0#5 → ∀ sh, shiftByImm sh n v c = shiftByReg sh n.toNat v c) ∧
    shiftByImm .lsl 0#5 v c = (v, c) ∧
    shiftByImm .lsr 0#5 v c = shiftByReg .lsr 32 v c ∧
    shiftByImm .asr 0#5 v c = shiftByReg .asr 32 v c ∧
    (shiftByImm .ror 0#5 v c).2 = v.getLsbD 0 ∧ (shiftByImm .ror 0#5 v c).1.getLsbD 31 = c ∧
    (∀ j < 31, (shiftByImm .ror 0#5 v c).1.getLsbD j = v.getLsbD (j + 1))) ∧
  (∀ (rot : BitVec 4) (imm : BitVec 8) (c : Bool),
    (∀ n < 32, (shiftedImm rot imm c).1.getLsbD n = imm.getLsbD ((n + 2 * rot.toNat) % 32)) ∧
    (shiftedImm rot imm c).2 = if rot = 0#4 then c else (shiftedImm rot imm c).1.getLsbD 31) ∧
  (∀ (s : State) (ahead8 ahead12 : RegNum → Word),
    (∀ r, ahead8 r = if r = 15#4 then s.pc + 8 else s.bankReg s.cpsr.m r) →
    (∀ r, ahead12 r = if r = 15#4 then s.pc + 12 else s.bankReg s.cpsr.m r) →
    (∀ (rot : BitVec 4) (imm : BitVec 8), (Operand2.imm rot imm).eval s = shiftedImm rot imm s.cpsr.c) ∧
    (∀ (amt : BitVec 5) (sh : ShiftKind) (rm : RegNum),
      (Operand2.shiftImm amt sh rm).eval s = shiftByImm sh amt (ahead8 rm) s.cpsr.c ∧
      (Offset.shifted amt sh rm).eval s = (shiftByImm sh amt (ahead8 rm) s.cpsr.c).1) ∧
    (∀ (rs : RegNum) (sh : ShiftKind) (rm : RegNum),
      (Operand2.shiftReg rs sh rm).eval s = shiftByReg sh ((ahead12 rs).toNat % 256) (ahead12 rm) s.cpsr.c) ∧
    (∀ v : Word, (Offset.imm v).eval s = v) ∧
    (∀ hi lo : BitVec 4, (halfOffset true hi lo).eval s = BitVec.ofNat 32 (hi.toNat * 16 + lo.toNat) ∧
      (halfOffset false hi lo).eval s = ahead8 lo) ∧
    (∀ o : Operand2, o.pcAhead = match o with | .shiftReg .. => 12#32 | _ => 8#32))

/-- The forty-eight data-processing rows where R15 is not written (R450, R460 to R475, R420 to R432): the result into Rd
(nothing for the compares), the flags where S = 1, the pc advanced, all else as it was. -/
def Obligations.DataProcessingResult : Prop :=
  ∀ (i : Instr) (op : DpOp) (c : Cond) (f : Bool) (rn rd : RegNum) (o : Operand2) (s : State),
    shapeOf i = .dataProc op c f rn rd o → Starts (shapeOf i) s → Permits (shapeOf i) s →
    (rd ≠ 15#4 ∨ op.isCompare = true) →
    exec i s = .next
      { s with
        afterUserLdm := false
        regs := if op.isCompare then s.regs
          else s.regs.set (physIndex s.cpsr.m rd) (dpValue op (s.x o.pcAhead rn) (o.eval s).1 s.cpsr.c)
        cpsr := if f then dpFlags op (s.x o.pcAhead rn) (o.eval s).1 (o.eval s).2 s.cpsr else s.cpsr
        pc := s.pc + 4 }

/-- A data-processing instruction that writes R15 (R107, R450, R451): with S = 0 it branches to its result in ARM state and
changes nothing else; with S = 1 it restores the CPSR from the current mode's SPSR and branches to its result aligned under
the restored T (R122); without an SPSR the alternative sets the flags of the result and branches. -/
def Obligations.DataProcessingBranch : Prop :=
  ∀ (i : Instr) (op : DpOp) (c : Cond) (f : Bool) (rn : RegNum) (o : Operand2) (s : State) (r : Word),
    shapeOf i = .dataProc op c f rn 15#4 o → op.isCompare = false → Starts (shapeOf i) s → Permits (shapeOf i) s →
    r = dpValue op (s.x o.pcAhead rn) (o.eval s).1 s.cpsr.c →
    (f = false → TargetOk r s →
      exec i s = .next { s with afterUserLdm := false, stale := [], pc := r &&& 0xFFFFFFFC#32 }) ∧
    (f = true → ∀ saved p, s.spsrNow = some saved → Cpsr.unpack saved = .ok p → (p.t = false → TargetOk r s) →
      exec i s = .next { s with afterUserLdm := false, stale := [], cpsr := p, pc := alignTarget p.t r }) ∧
    (f = true → s.spsrNow = none → s.params.arm7tdmiAlt = true →
      exec i s = .next
        { s with
          afterUserLdm := false
          stale := []
          cpsr := dpFlags op (s.x o.pcAhead rn) (o.eval s).1 (o.eval s).2 s.cpsr
          pc := r &&& 0xFFFFFFFC#32 })

/-- MUL and MLA (R500 to R504): Rd gets the exact product, plus Rn for MLA, modulo 2^32; with S = 1, N and Z are the
result's, V is unchanged and C is free (nothing is stated of it); with S = 0 no flag changes.
Thumb MUL (R725) is the flag-setting product of Rd and Rs into Rd. -/
def Obligations.MultiplyResult : Prop :=
  (∀ (i : Instr) (c : Cond) (f : Bool) (rd : RegNum) (acc : Option RegNum) (rs rm : RegNum) (s : State) (r : Word),
    shapeOf i = .multiply c f rd acc rs rm → Starts (shapeOf i) s → Permits (shapeOf i) s →
    r = BitVec.ofNat 32 ((s.bankReg s.cpsr.m rm).toNat * (s.bankReg s.cpsr.m rs).toNat +
      match acc with
      | some rn => (s.bankReg s.cpsr.m rn).toNat
      | none => 0) →
    ∃ t, exec i s = .next t ∧
      t = { s with afterUserLdm := false, pc := s.pc + 4, regs := s.regs.set (physIndex s.cpsr.m rd) r,
                   cpsr := t.cpsr, draws := t.draws } ∧
      (f = false → t.cpsr = s.cpsr) ∧
      (f = true → t.cpsr = { s.cpsr with n := r.getLsbD 31, z := decide (r = 0#32), c := t.cpsr.c })) ∧
  (∀ (rs rd : LowReg) (s : State) (r : Word), Permits (.tMul rs rd) s →
    r = BitVec.ofNat 32 ((s.bankReg s.cpsr.m rd.num).toNat * (s.bankReg s.cpsr.m rs.num).toNat) →
    ∃ t, exec (.tMul rs rd) s = .next t ∧
      t = { s with afterUserLdm := false, pc := s.pc + 2, regs := s.regs.set (physIndex s.cpsr.m rd.num) r,
                   cpsr := t.cpsr, draws := t.draws } ∧
      t.cpsr = { s.cpsr with n := r.getLsbD 31, z := decide (r = 0#32), c := t.cpsr.c })

/-- UMULL, UMLAL, SMULL, SMLAL (R510 to R514): RdHi and RdLo get the halves of the exact product, unsigned or signed, plus the
old {RdHi, RdLo} for the accumulating ones, modulo 2^64; with S = 1, N and Z are the 64-bit result's and C and V are free. -/
def Obligations.LongMultiplyResult : Prop :=
  ∀ (i : Instr) (sg acc : Bool) (c : Cond) (f : Bool) (rdHi rdLo rs rm : RegNum) (s : State) (r : BitVec 64),
    shapeOf i = .longMultiply sg acc c f rdHi rdLo rs rm → Starts (shapeOf i) s → Permits (shapeOf i) s →
    r = (if sg then (s.bankReg s.cpsr.m rm).signExtend 64 * (s.bankReg s.cpsr.m rs).signExtend 64
         else (s.bankReg s.cpsr.m rm).setWidth 64 * (s.bankReg s.cpsr.m rs).setWidth 64) +
        (if acc then s.bankReg s.cpsr.m rdHi ++ s.bankReg s.cpsr.m rdLo else 0#64) →
    ∃ t, exec i s = .next t ∧
      t = { s with afterUserLdm := false, pc := s.pc + 4, regs := t.regs, cpsr := t.cpsr, draws := t.draws } ∧
      t.bankReg s.cpsr.m rdHi ++ t.bankReg s.cpsr.m rdLo = r ∧
      (∀ m j, j ≠ 15#4 → physIndex m j ≠ physIndex s.cpsr.m rdHi → physIndex m j ≠ physIndex s.cpsr.m rdLo →
        t.bankReg m j = s.bankReg m j) ∧
      (f = false → t.cpsr = s.cpsr) ∧
      (f = true → t.cpsr = { s.cpsr with n := r.getLsbD 63, z := decide (r = 0#64), c := t.cpsr.c, v := t.cpsr.v })

/-! ### Branches -/

/-- B and BL (R550, R551): the pc goes to A + 8 plus the signed offset times 4, in the same state; BL leaves A + 4 in R14 of
the current mode. The Thumb branches (R785, R788): the fourteen conditional ones where their condition holds, and B, go to
A + 4 plus the signed offset times 2; a conditional one whose condition fails goes to A + 2. -/
def Obligations.BranchResult : Prop :=
  ∀ (i : Instr) (s : State),
    (∀ (c : Cond) (link : Bool) (off : BitVec 24), shapeOf i = .branch c link off → Starts (shapeOf i) s →
      exec i s = .next
        { s with
          afterUserLdm := false
          stale := []
          regs := if link then s.regs.set (physIndex s.cpsr.m 14#4) (s.pc + 4) else s.regs
          pc := s.pc + 8 + BitVec.ofInt 32 (off.toInt * 4) }) ∧
    (∀ (c : Cond) (off : BitVec 8), shapeOf i = .tBranchIf c off →
      exec i s = .next
        { s with
          afterUserLdm := false
          stale := if condHolds c s.cpsr then [] else s.stale
          pc := if condHolds c s.cpsr then s.pc + 4 + BitVec.ofInt 32 (off.toInt * 2) else s.pc + 2 }) ∧
    (∀ off : BitVec 11, shapeOf i = .tB off →
      exec i s = .next
        { s with afterUserLdm := false, stale := [], pc := s.pc + 4 + BitVec.ofInt 32 (off.toInt * 2) })

/-- BX, ARM and Thumb (R555, R556, R735): T from bit 0 of the register, R15 read as A + 8 in ARM and A + 4 in Thumb, the target
aligned for the state entered. -/
def Obligations.ExchangeResult : Prop :=
  ∀ (i : Instr) (rm : RegNum) (ahead : Word) (s : State),
    ((∃ c, shapeOf i = .bx c rm ∧ ahead = 8#32) ∨ (shapeOf i = .tBx rm ∧ ahead = 4#32)) → Starts (shapeOf i) s →
    ((s.x ahead rm).getLsbD 0 = false → TargetOk (s.x ahead rm) s) →
    exec i s = .next
      { s with
        afterUserLdm := false
        stale := []
        cpsr := { s.cpsr with t := (s.x ahead rm).getLsbD 0 }
        pc := alignTarget ((s.x ahead rm).getLsbD 0) (s.x ahead rm) }

/-- The two halves of Thumb BL (R789, R790), each alone and as a pair: the prefix leaves A + 4 plus the signed high offset
times 4096 in R14; the suffix branches to R14 plus the low offset times 2 and leaves its next address with bit 0 set; the
pair at A branches to A + 4 plus the signed 22-bit offset times 2 and returns to A + 4 in Thumb state. -/
def Obligations.ThumbLongBranch : Prop :=
  ∀ (s : State) (hi lo : BitVec 11),
    exec (.tBlPrefix hi) s = .next
      { s with
        afterUserLdm := false
        regs := s.regs.set (physIndex s.cpsr.m 14#4) (s.pc + 4 + BitVec.ofInt 32 (hi.toInt * 4096))
        pc := s.pc + 2 } ∧
    exec (.tBlSuffix lo) s = .next
      { s with
        afterUserLdm := false
        stale := []
        regs := s.regs.set (physIndex s.cpsr.m 14#4) ((s.pc + 2) ||| 1#32)
        pc := (s.bankReg s.cpsr.m 14#4 + BitVec.ofNat 32 (lo.toNat * 2)) &&& 0xFFFFFFFE#32 } ∧
    (∀ t, exec (.tBlPrefix hi) s = .next t → ∃ u, exec (.tBlSuffix lo) t = .next u ∧
      u.pc = (s.pc + 4 + BitVec.ofInt 32 ((hi ++ lo).toInt * 2)) &&& 0xFFFFFFFE#32 ∧
      u.bankReg s.cpsr.m 14#4 = (s.pc + 4) ||| 1#32 ∧ u.cpsr = s.cpsr)

/-! ### Thumb arithmetic -/

/-- The Thumb ALU rows (R704 to R713, R717, R718, R720 to R724, R726, R727, R434): the result into Rd (nothing for CMP, CMN,
TST), N, Z, C, V by the law of the operation, C and V kept by the logical ones, the pc advanced, all else as it was. -/
def Obligations.ThumbAluResult : Prop :=
  ∀ (i : Instr) (op : DpOp) (rd : LowReg) (a b : TArg) (s : State), shapeOf i = .tAlu op rd a b →
    exec i s = .next
      { s with
        afterUserLdm := false
        regs := if op.isCompare then s.regs
          else s.regs.set (physIndex s.cpsr.m rd.num) (dpValue op (a.value s) (b.value s) s.cpsr.c)
        cpsr := dpFlags op (a.value s) (b.value s) s.cpsr.c s.cpsr
        pc := s.pc + 2 }

/-- The Thumb shifts (R701 to R703, R714 to R716, R719): the shifter's value into Rd, N and Z of it, C the shifter's carry, V
kept. -/
def Obligations.ThumbShiftResult : Prop :=
  ∀ (i : Instr) (sh : ShiftKind) (n : TAmount) (src rd : LowReg) (s : State) (x : Shifted),
    shapeOf i = .tShift sh n src rd →
    x = (match n with
      | .imm k => shiftByImm sh k (s.bankReg s.cpsr.m src.num) s.cpsr.c
      | .reg r => shiftByReg sh ((s.bankReg s.cpsr.m r.num).toNat % 256) (s.bankReg s.cpsr.m src.num) s.cpsr.c) →
    exec i s = .next
      { s with
        afterUserLdm := false
        regs := s.regs.set (physIndex s.cpsr.m rd.num) x.1
        cpsr := { s.cpsr with n := x.1.getLsbD 31, z := decide (x.1 = 0#32), c := x.2 }
        pc := s.pc + 2 }

/-- Thumb format 5 (R730 to R733): ADD and MOV of any two registers without flags, a write of R15 branching in Thumb state;
CMP sets the flags of the difference. -/
def Obligations.ThumbHiResult : Prop :=
  ∀ (m d : RegNum) (s : State),
    (Permits (.tHi .add m d) s → exec (.tAddHi m d) s = .next
      (if d = 15#4 then { s with afterUserLdm := false, stale := [], pc := (s.x 4 d + s.x 4 m) &&& 0xFFFFFFFE#32 }
       else { s with afterUserLdm := false, pc := s.pc + 2, regs := s.regs.set (physIndex s.cpsr.m d) (s.x 4 d + s.x 4 m) })) ∧
    (Permits (.tHi .mov m d) s → exec (.tMovHi m d) s = .next
      (if d = 15#4 then { s with afterUserLdm := false, stale := [], pc := s.x 4 m &&& 0xFFFFFFFE#32 }
       else { s with afterUserLdm := false, pc := s.pc + 2, regs := s.regs.set (physIndex s.cpsr.m d) (s.x 4 m) })) ∧
    (Permits (.tHi .cmp m d) s → exec (.tCmpHi m d) s = .next
      { s with afterUserLdm := false, pc := s.pc + 2, cpsr := dpFlags .cmp (s.x 4 d) (s.x 4 m) false s.cpsr })

/-- Thumb ADD from PC, ADD from SP, and the adjustment of SP (R740 to R742): no flag changes. -/
def Obligations.ThumbAddressResult : Prop :=
  ∀ (rd : LowReg) (imm : BitVec 8) (sub : Bool) (imm7 : BitVec 7) (s : State),
    exec (.tAddPc rd imm) s = .next
      { s with
        afterUserLdm := false, pc := s.pc + 2
        regs := s.regs.set (physIndex s.cpsr.m rd.num) (((s.pc + 4) &&& 0xFFFFFFFC#32) + imm.setWidth 32 * 4) } ∧
    exec (.tAddSp rd imm) s = .next
      { s with
        afterUserLdm := false, pc := s.pc + 2
        regs := s.regs.set (physIndex s.cpsr.m rd.num) (s.bankReg s.cpsr.m 13#4 + imm.setWidth 32 * 4) } ∧
    exec (.tAdjustSp sub imm7) s = .next
      { s with
        afterUserLdm := false, pc := s.pc + 2
        regs := s.regs.set (physIndex s.cpsr.m 13#4)
          (if sub then s.bankReg s.cpsr.m 13#4 - imm7.setWidth 32 * 4 else s.bankReg s.cpsr.m 13#4 + imm7.setWidth 32 * 4) }

/-! ### Loads and stores -/

/-- A word load (R211) at any address reads the aligned word and delivers it rotated so that the addressed byte is in bits 7:0;
a misaligned address is no trap: the load faults exactly where the aligned read does. So do LDR and LDRT in every form (a load
of R15 branches, `LoadResult`), the load half of SWP, and the Thumb LDRs: where the aligned read is served, Rd gets the
rotated word. -/
def Obligations.WordLoadRotates : Prop :=
  (∀ (a : Word) (s : State),
    (∀ w s', busLoad .word (a &&& 0xFFFFFFFC#32) s = .ok (w, s') →
      ∃ v, loadValue .ldr a s = .ok (v, s') ∧ v = w.rotateRight (8 * (a.toNat % 4)) ∧
        v.extractLsb' 0 8 = w.extractLsb' (8 * (a.toNat % 4)) 8) ∧
    (∀ f, busLoad .word (a &&& 0xFFFFFFFC#32) s = .error f → loadValue .ldr a s = .error f)) ∧
  (∀ (i : Instr) (c : Cond) (x : Indexing) (rn rd : RegNum) (o : Offset) (a w : Word) (s s' : State),
    shapeOf i = .transfer .ldr c x rn rd o → Starts (shapeOf i) s → Permits (shapeOf i) s → rd ≠ 15#4 →
    a = (if x.p then (if x.u then s.x 8 rn + o.eval s else s.x 8 rn - o.eval s) else s.x 8 rn) →
    busLoad .word (a &&& 0xFFFFFFFC#32) s.begun = .ok (w, s') →
    ∃ t, exec i s = .next t ∧ t.bankReg s.cpsr.m rd = w.rotateRight (8 * (a.toNat % 4))) ∧
  (∀ (i : Instr) (c : Cond) (rn rd rm : RegNum) (a w : Word) (s s' t : State),
    shapeOf i = .swap .ldr .str c rn rd rm → Starts (shapeOf i) s → a = s.bankReg s.cpsr.m rn →
    busLoad .word (a &&& 0xFFFFFFFC#32) s.begun = .ok (w, s') → exec i s = .next t →
    t.bankReg s.cpsr.m rd = w.rotateRight (8 * (a.toNat % 4))) ∧
  (∀ (i : Instr) (rd : LowReg) (o : TAddr) (a w : Word) (s s' : State), shapeOf i = .tTransfer .ldr rd o → a = o.value s →
    busLoad .word (a &&& 0xFFFFFFFC#32) s.begun = .ok (w, s') →
    ∃ t, exec i s = .next t ∧ t.bankReg s.cpsr.m rd.num = w.rotateRight (8 * (a.toNat % 4)))

/-- Loads from RAM and ROM (R200 to R202, R205, R211, R213, R216): where the aligned word's place holds the bytes `f`, each load
at an address in it is served and changes no state: the word rotated, the halfword zero- or sign-extended, the byte zero- or
sign-extended; an odd halfword by its alternative. -/
def Obligations.LoadsFromMemory : Prop :=
  ∀ (t : Transfer) (a : Word) (s : State) (r : Region) (key : Nat) (f : Nat → Byte), t.isLoad = true →
    (r = .ram ∨ r = .rom) →
    (∀ j < 4, classify s.params ((a &&& 0xFFFFFFFC#32) + BitVec.ofNat 32 j) = some (r, key + j)) →
    (∀ j < 4, Memory.read s.mem (key + j) = some (f j)) →
    ((t = .ldrh ∨ t = .ldrsh) → a.getLsbD 0 = true → s.params.arm7tdmiAlt = true) →
    loadValue t a s = .ok
      ((match t with
        | .ldrb => (f (a.toNat % 4)).setWidth 32
        | .ldrsb => (f (a.toNat % 4)).signExtend 32
        | .ldrh =>
          if a.getLsbD 0 then ((f (a.toNat % 4) ++ f (a.toNat % 4 - 1)).setWidth 32).rotateRight 8
          else (f (a.toNat % 4 + 1) ++ f (a.toNat % 4)).setWidth 32
        | .ldrsh =>
          if a.getLsbD 0 then (f (a.toNat % 4)).signExtend 32
          else (f (a.toNat % 4 + 1) ++ f (a.toNat % 4)).signExtend 32
        | _ => (f 3 ++ f 2 ++ f 1 ++ f 0).rotateRight (8 * (a.toNat % 4))), s)

/-- Stores to RAM are served, and a load of the same width and place gives the stored value back, zero-extended; no other
byte of memory changes (R200, R202, R205, R240). The stores of the instructions (R212, R214, R216) write so at the address
with the low bits of their width cleared, a halfword at an odd address by its alternative; beside memory only the record of
raced words may change (`PrefetchRace`). -/
def Obligations.StoreThenLoad : Prop :=
  (∀ (w : Width) (a v : Word) (s : State) (key : Nat), classify s.params a = some (.ram, key) →
    ∃ t, busStore w a v s = .ok t ∧ t = { s with mem := t.mem } ∧
      busLoad w a t = .ok (v &&& BitVec.ofNat 32 (2 ^ (8 * w.bytes) - 1), t) ∧
      (∀ k, k < key ∨ key + w.bytes ≤ k → Memory.read t.mem k = Memory.read s.mem k) ∧
      (∀ j < w.bytes, Memory.read t.mem (key + j) = some (v.extractLsb' (8 * j) 8))) ∧
  (∀ (k : Transfer) (a v : Word) (s : State) (key : Nat), k.isLoad = false →
    classify s.params (a - BitVec.ofNat 32 (a.toNat % k.width.bytes)) = some (.ram, key) →
    (k = .strh → a.getLsbD 0 = true → s.params.arm7tdmiAlt = true) →
    ∃ t, storeValue k a v s = .ok t ∧ t = { s with mem := t.mem, stale := t.stale } ∧
      (∀ b, b < key ∨ key + k.width.bytes ≤ b → Memory.read t.mem b = Memory.read s.mem b) ∧
      (∀ j < k.width.bytes, Memory.read t.mem (key + j) = some (v.extractLsb' (8 * j) 8)))

/-- The regions with no storage of their own (R201, R202): a ROM write is ignored; an I/O write is recorded with its
address, width and value and changes no other state (the record is the model's log, log 18); an I/O read gives some value of
its width (a free value, log 5); an access at an address
the route maps to no region is the fault BusFault with that address. -/
def Obligations.OtherRegions : Prop :=
  ∀ (w : Width) (a v : Word) (s : State) (k : Nat),
    (classify s.params a = some (.rom, k) → busStore w a v s = .ok s) ∧
    (classify s.params a = some (.io, k) →
      busStore w a v s =
        .ok { s with ioLog := s.ioLog ++ [⟨a, w, v &&& BitVec.ofNat 32 (2 ^ (8 * w.bytes) - 1)⟩] } ∧
      ∃ r, r.toNat < 2 ^ (8 * w.bytes) ∧ busLoad w a s = .ok (r, { s with draws := s.draws + 1 })) ∧
    (classify s.params a = none → busStore w a v s = .error (.stop (.busFault a) s) ∧
      busLoad w a s = .error (.stop (.busFault a) s))

/-- The ARM single loads, LDR, LDRB, LDRH, LDRSB, LDRSH, LDRT, LDRBT in every addressing form (R600 to R612, R620 to R625):
where the load at the computed address is served, the base is written back first, then Rd gets the value; a load of R15
branches (R612). -/
def Obligations.LoadResult : Prop :=
  ∀ (i : Instr) (t : Transfer) (c : Cond) (x : Indexing) (rn rd : RegNum) (o : Offset) (s s' : State) (v base off : Word),
    shapeOf i = .transfer t c x rn rd o → t.isLoad = true → Starts (shapeOf i) s → Permits (shapeOf i) s →
    base = s.x 8 rn → off = o.eval s →
    loadValue t (if x.p then (if x.u then base + off else base - off) else base) s.begun = .ok (v, s') →
    (rd = 15#4 → TargetOk v s) →
    exec i s = .next
      { s' with
        regs :=
          let wb := if x.p = false ∨ x.w = true then
            s.regs.set (physIndex s.cpsr.m rn) (if x.u then base + off else base - off) else s.regs
          if rd = 15#4 then wb else wb.set (physIndex s.cpsr.m rd) v
        stale := if rd = 15#4 then [] else s'.stale
        pc := if rd = 15#4 then v &&& 0xFFFFFFFC#32 else s.pc + 4 }

/-- The ARM single stores, STR, STRB, STRH, STRT, STRBT in every addressing form (R600 to R610, R620 to R625): where the store
of Rd (A + 12 for R15, R605), read before the write-back, is served at the computed address, the base is written back and the
pc advances. -/
def Obligations.StoreResult : Prop :=
  ∀ (i : Instr) (t : Transfer) (c : Cond) (x : Indexing) (rn rd : RegNum) (o : Offset) (s s' : State) (base off : Word),
    shapeOf i = .transfer t c x rn rd o → t.isLoad = false → Starts (shapeOf i) s → Permits (shapeOf i) s →
    base = s.x 8 rn → off = o.eval s →
    storeValue t (if x.p then (if x.u then base + off else base - off) else base)
      (if rd = 15#4 then s.pc + 12 else s.bankReg s.cpsr.m rd) s.begun = .ok s' →
    exec i s = .next
      { s' with
        regs := if x.p = false ∨ x.w = true then
          s.regs.set (physIndex s.cpsr.m rn) (if x.u then base + off else base - off) else s.regs
        pc := s.pc + 4 }

/-- SWP and SWPB (R630, R631): the old word (rotated) or byte into Rd, the value of Rm, read first, into memory. -/
def Obligations.SwapResult : Prop :=
  ∀ (i : Instr) (l k : Transfer) (c : Cond) (rn rd rm : RegNum) (s s1 s2 : State) (v : Word),
    shapeOf i = .swap l k c rn rd rm → Starts (shapeOf i) s → Permits (shapeOf i) s →
    loadValue l (s.bankReg s.cpsr.m rn) s.begun = .ok (v, s1) →
    storeValue k (s.bankReg s.cpsr.m rn) (s.bankReg s.cpsr.m rm) s1 = .ok s2 →
    ((l = .ldr ∧ k = .str) ∨ (l = .ldrb ∧ k = .strb)) ∧
    exec i s = .next { s2 with regs := s.regs.set (physIndex s.cpsr.m rd) v, pc := s.pc + 4 }

/-- The Thumb single loads and stores (R750 to R767): where the access at the computed address is served. -/
def Obligations.ThumbTransferResult : Prop :=
  ∀ (i : Instr) (t : Transfer) (rd : LowReg) (a : TAddr) (s s' : State) (v : Word), shapeOf i = .tTransfer t rd a →
    (t.isLoad = true → loadValue t (a.value s) s.begun = .ok (v, s') →
      exec i s = .next { s' with regs := s.regs.set (physIndex s.cpsr.m rd.num) v, pc := s.pc + 2 }) ∧
    (t.isLoad = false → storeValue t (a.value s) (s.bankReg s.cpsr.m rd.num) s.begun = .ok s' →
      exec i s = .next { s' with pc := s.pc + 2 })

/-- The words of a block transfer in RAM (R650, R651, R215): the k-th word is at `start + 4k` aligned, with no rotation; a
block load reads them in order, a block store writes them there and changes no other byte. The registers of a list
are those whose bits are set, in increasing order (R324). -/
def Obligations.BlockWords : Prop :=
  (∀ (start : Word) (vs : List Word) (s : State) (key : Nat),
    (∀ k < vs.length, classify s.params (alignWord (start + BitVec.ofNat 32 (4 * k))) = some (.ram, key + 4 * k)) →
    ∃ t, storeWords start vs s = .ok t ∧ t = { s with mem := t.mem, stale := t.stale } ∧
      (∀ (k : Nat) (v : Word), vs[k]? = some v → ∀ j < 4, Memory.read t.mem (key + 4 * k + j) = some (v.extractLsb' (8 * j) 8)) ∧
      (∀ a, a < key ∨ key + 4 * vs.length ≤ a → Memory.read t.mem a = Memory.read s.mem a) ∧
      loadWords start vs.length t = .ok (vs, t)) ∧
  (∀ list : BitVec 16, (∀ r : RegNum, r ∈ regList list ↔ list.getLsbD r.toNat = true) ∧
    (regList list).Pairwise (fun a b => a.toNat < b.toNat))

/-- LDM with a list, in its eight forms with S and W, without R15 in the list (R650 to R654, R660): where the words are read,
each listed register of the bank gets its word, the base is written back first where W = 1, nothing else changes. That Rn = 15
is not written back (the pc is A + 4 then too) is the model's reading (log 15). -/
def Obligations.BlockLoadResult : Prop :=
  ∀ (i : Instr) (bm : BlockMode) (c : Cond) (ub w : Bool) (rn : RegNum) (list : BitVec 16) (s s' : State) (vs : List Word)
    (m : Mode), shapeOf i = .block true bm c ub w rn list → list.getLsbD 15 = false → list ≠ 0#16 →
    Starts (shapeOf i) s → Permits (shapeOf i) s → m = (if ub then .usr else s.cpsr.m) →
    loadWords (bm.start (s.x 8 rn) (regList list).length) (regList list).length s.begun = .ok (vs, s') →
    ∃ t, exec i s = .next t ∧ t = { s' with regs := t.regs, pc := s.pc + 4, afterUserLdm := ub } ∧
      (∀ (k : Nat) (r : RegNum) (v : Word), (regList list)[k]? = some r → vs[k]? = some v → t.bankReg m r = v) ∧
      (w = true → rn ≠ 15#4 → (∀ r ∈ regList list, physIndex s.cpsr.m rn ≠ physIndex m r) →
        t.bankReg s.cpsr.m rn = bm.writeBack (s.x 8 rn) (regList list).length) ∧
      (∀ m' j, j ≠ 15#4 → (∀ r ∈ regList list, physIndex m' j ≠ physIndex m r) →
        (w = false ∨ physIndex m' j ≠ physIndex s.cpsr.m rn) → t.bankReg m' j = s.bankReg m' j)

/-- LDM with R15 in the list (R656, R661): the other registers are the current mode's; with S = 0 the last word is a branch
in ARM state; with S = 1 the CPSR is restored from the SPSR and the branch is under the restored T.
The empty list, by its alternative (R657), loads R15 alone from the address of sixteen registers and moves the base by 0x40;
that it restores no CPSR with S = 1, and that Rn = 15 is not written back, are the model's readings (logs 20, 15). -/
def Obligations.BlockLoadPcResult : Prop :=
  (∀ (i : Instr) (bm : BlockMode) (c : Cond) (ub w : Bool) (rn : RegNum) (list : BitVec 16) (s s' : State) (vs : List Word)
    (target : Word) (p : Cpsr), shapeOf i = .block true bm c ub w rn list → list.getLsbD 15 = true →
    Starts (shapeOf i) s → Permits (shapeOf i) s →
    loadWords (bm.start (s.x 8 rn) (regList list).length) (regList list).length s.begun = .ok (vs, s') →
    vs.getLast? = some target →
    ((ub = false ∧ p = s.cpsr) ∨ (ub = true ∧ ∃ saved, s.spsrNow = some saved ∧ Cpsr.unpack saved = .ok p) ∨
      (ub = true ∧ s.spsrNow = none ∧ s.params.arm7tdmiAlt = true ∧ p = s.cpsr)) →
    (s.cpsr.t = false) → (p.t = false → TargetOk target s) →
    ∃ t, exec i s = .next t ∧ t = { s' with regs := t.regs, stale := [], cpsr := p, pc := alignTarget p.t target } ∧
      (∀ (k : Nat) (r : RegNum) (v : Word), (regList list)[k]? = some r → r ≠ 15#4 → vs[k]? = some v →
        t.bankReg s.cpsr.m r = v) ∧
      (w = true → rn ≠ 15#4 → list.getLsbD rn.toNat = false →
        t.bankReg s.cpsr.m rn = bm.writeBack (s.x 8 rn) (regList list).length) ∧
      (∀ m' j, j ≠ 15#4 → (∀ r ∈ regList list, r ≠ 15#4 → physIndex m' j ≠ physIndex s.cpsr.m r) →
        (w = false ∨ physIndex m' j ≠ physIndex s.cpsr.m rn) → t.bankReg m' j = s.bankReg m' j)) ∧
  (∀ (i : Instr) (bm : BlockMode) (c : Cond) (ub w : Bool) (rn : RegNum) (s s' : State) (v : Word),
    shapeOf i = .block true bm c ub w rn 0#16 → Starts (shapeOf i) s → Permits (shapeOf i) s →
    busLoad .word (alignWord (bm.start (s.x 8 rn) 16)) s.begun = .ok (v, s') →
    exec i s = .next
      { s' with
        regs := if w = true ∧ rn ≠ 15#4 then s.regs.set (physIndex s.cpsr.m rn) (bm.writeBack (s.x 8 rn) 16) else s.regs
        stale := []
        pc := v &&& 0xFFFFFFFC#32 })

/-- STM in its forms (R650 to R655, R657, R660): where the words are stored, the listed registers of the bank in order, R15 as
A + 12, a written-back base as the original base where it is the lowest of the list and as the written-back value where not;
the empty list stores R15 alone and moves the base by 0x40; then the write-back. That a User-bank STM with write-back stores
its listed base so too, and that Rn = 15 is not written back, are the model's readings (logs 22, 15). -/
def Obligations.BlockStoreResult : Prop :=
  ∀ (i : Instr) (bm : BlockMode) (c : Cond) (ub w : Bool) (rn : RegNum) (list : BitVec 16) (s s' : State) (n : Nat),
    shapeOf i = .block false bm c ub w rn list → Starts (shapeOf i) s → Permits (shapeOf i) s →
    n = (if list = 0#16 then 16 else (regList list).length) →
    storeWords (bm.start (s.x 8 rn) n)
      (if list = 0#16 then [s.pc + 12]
       else (regList list).map (fun r =>
        if r = 15#4 then s.pc + 12
        else if r = rn ∧ w = true then
          (if (regList list).head? = some rn then s.bankReg s.cpsr.m rn else bm.writeBack (s.x 8 rn) n)
        else s.bankReg (if ub then .usr else s.cpsr.m) r)) s.begun = .ok s' →
    exec i s = .next
      { s' with
        regs := if w = true ∧ rn ≠ 15#4 then s.regs.set (physIndex s.cpsr.m rn) (bm.writeBack (s.x 8 rn) n) else s.regs
        pc := s.pc + 4 }

/-- PUSH and POP (R770, R771): the low registers in order and LR or PC at the highest address; SP moved; a popped PC
branches in Thumb state; every other register of every bank, and all else, as the accesses left it. -/
def Obligations.StackResult : Prop :=
  ∀ (r : Bool) (list : BitVec 8) (s s' : State) (vs : List Word), (list ≠ 0#8 ∨ r = true) →
    (storeWords (s.bankReg s.cpsr.m 13#4 - BitVec.ofNat 32 (4 * stackCount r list))
        ((lowList list).map (s.bankReg s.cpsr.m) ++ (if r then [s.bankReg s.cpsr.m 14#4] else [])) s.begun = .ok s' →
      exec (.tPush r list) s = .next
        { s' with
          regs := s.regs.set (physIndex s.cpsr.m 13#4) (s.bankReg s.cpsr.m 13#4 - BitVec.ofNat 32 (4 * stackCount r list))
          pc := s.pc + 2 }) ∧
    (loadWords (s.bankReg s.cpsr.m 13#4) (stackCount r list) s.begun = .ok (vs, s') →
      ∃ t, exec (.tPop r list) s = .next t ∧ t = { s' with regs := t.regs, pc := t.pc, stale := if r then [] else s'.stale } ∧
        t.bankReg s.cpsr.m 13#4 = s.bankReg s.cpsr.m 13#4 + BitVec.ofNat 32 (4 * stackCount r list) ∧
        (∀ (k : Nat) (q : RegNum) (v : Word), (lowList list)[k]? = some q → vs[k]? = some v → t.bankReg s.cpsr.m q = v) ∧
        (∀ m j, j ≠ 15#4 → physIndex m j ≠ physIndex s.cpsr.m 13#4 →
          (∀ q ∈ lowList list, physIndex m j ≠ physIndex s.cpsr.m q) → t.bankReg m j = s.bankReg m j) ∧
        (r = false → t.pc = s.pc + 2) ∧ (∀ v, r = true → vs.getLast? = some v → t.pc = v &&& 0xFFFFFFFE#32))

/-- Thumb STMIA and LDMIA (R772 to R774): the listed registers in order from the base; the base moved by 4 for each; LDMIA
with the base in the list keeps the loaded value; STMIA stores the original base where Rb is the lowest of the list. -/
def Obligations.ThumbBlockResult : Prop :=
  ∀ (rb : LowReg) (list : BitVec 8) (s s' : State) (vs : List Word) (moved : Word),
    moved = s.bankReg s.cpsr.m rb.num + BitVec.ofNat 32 (4 * (lowList list).length) →
    (Permits (.tBlock false rb list) s →
      storeWords (s.bankReg s.cpsr.m rb.num) ((lowList list).map (fun q =>
        if q = rb.num ∧ (lowList list).head? ≠ some rb.num then moved else s.bankReg s.cpsr.m q)) s.begun = .ok s' →
      exec (.tStmia rb list) s = .next
        { s' with regs := s.regs.set (physIndex s.cpsr.m rb.num) moved, pc := s.pc + 2 }) ∧
    (Permits (.tBlock true rb list) s →
      loadWords (s.bankReg s.cpsr.m rb.num) (lowList list).length s.begun = .ok (vs, s') →
      ∃ t, exec (.tLdmia rb list) s = .next t ∧ t = { s' with regs := t.regs, pc := s.pc + 2 } ∧
        (∀ (k : Nat) (q : RegNum) (v : Word), (lowList list)[k]? = some q → vs[k]? = some v → t.bankReg s.cpsr.m q = v) ∧
        (list.getLsbD rb.toNat = false → t.bankReg s.cpsr.m rb.num = moved))

/-! ### Frames -/

/-- Every byte of memory an instruction does not store to reads as before, for every instruction but a call of the external
service: for every address outside the bytes of the stores `storesTo` computes (and, for Flash and EEPROM, outside the
chip), reading a byte after gives what reading it before gave; the I/O log and, for an instruction that stores nothing, the
whole memory and the render proxy are as they were (R202, R222, R240). -/
def Obligations.MemoryFrame : Prop :=
  ∀ (i : Instr) (s t : State), exec i s = .next t → (shapeOf i).callsService s = false →
    (∀ b, (∀ q ∈ (shapeOf i).storesTo s, ¬ Touches s.params q.1 q.2 b) → t.byteAt b = s.byteAt b) ∧
    ((shapeOf i).storesTo s = [] → t.mem = s.mem ∧ t.proxy = s.proxy ∧ t.ioLog = s.ioLog ∧ t.save.buffer = s.save.buffer)

/-- Every register but those an instruction writes (its destinations, an updated base, a link register) is unchanged, in
every bank (R102, R103, R450, R601, R652). -/
def Obligations.RegisterFrame : Prop :=
  ∀ (i : Instr) (s t : State) (m : Mode) (j : RegNum), exec i s = .next t → j ≠ 15#4 →
    (∀ q ∈ (shapeOf i).writes s, q.2 ≠ 15#4 → physIndex m j ≠ physIndex q.1 q.2) → t.bankReg m j = s.bankReg m j

/-- The CPSR is unchanged by an instruction that does not set flags, write it, exchange, return or take an exception; the
SPSRs by one that is neither MSR to an SPSR nor takes an exception (R110, R120). No instruction changes the parameters, the
inputs, the schedule of the other agents or what they were handed (R12, R124, R240). That none changes the cycle counter is the
model's choice (log 12: R125 names increments the spec does not model). -/
def Obligations.StatusFrame : Prop :=
  ∀ (i : Instr) (s t : State), exec i s = .next t →
    ((shapeOf i).writesCpsr s = false → t.cpsr = s.cpsr) ∧ ((shapeOf i).writesSpsr s = false → t.spsr = s.spsr) ∧
      SameRest s t

/-- Where a fault stops and what it leaves (R14, R900, R902). An instruction that starts and has an UNPREDICTABLE case without
an effect stops with that fault, before any access: the cases 93 section 1 marks "fault always", whatever `arm7tdmiAlt` is, and
the others where it is false (that UserBankInUserMode comes before an LDM's reads is the model's reading, log 16). Whatever
fault an instruction stops with, no register, flag, SPSR, pc, parameter or input has changed; only accesses performed before it
are visible (and the free values and service calls they used). A block transfer faults at one of its words, with every word
before it transferred, and STM leaves exactly those stores. -/
def Obligations.FaultsStop : Prop :=
  (∀ (i : Instr) (s : State), Starts (shapeOf i) s → ¬ Permits (shapeOf i) s →
    ∃ case, exec i s = .fault (.stop (.unpredictable case) s)) ∧
  (∀ (i : Instr) (s t : State) (r : FaultReason), exec i s = .fault (.stop r t) →
    t = { s with mem := t.mem, ioLog := t.ioLog, swiCalls := t.swiCalls, save := t.save, proxy := t.proxy, draws := t.draws }) ∧
  (∀ (start : Word) (vs : List Word) (s t : State) (r : FaultReason), storeWords start vs s = .error (.stop r t) →
    ∃ k v, vs[k]? = some v ∧ storeWords start (vs.take k) s = .ok t ∧
      busStore .word (alignWord (start + BitVec.ofNat 32 (4 * k))) v t = .error (.stop r t)) ∧
  (∀ (start : Word) (n : Nat) (s t : State) (r : FaultReason), loadWords start n s = .error (.stop r t) →
    ∃ k vs, k < n ∧ loadWords start k s = .ok (vs, t) ∧
      busLoad .word (alignWord (start + BitVec.ofNat 32 (4 * k))) t = .error (.stop r t)) ∧
  (∀ (i : Instr) (bm : BlockMode) (c : Cond) (ub : Bool) (rn : RegNum) (list : BitVec 16) (s t : State) (r : FaultReason),
    shapeOf i = .block false bm c ub false rn list → list ≠ 0#16 → Starts (shapeOf i) s → Permits (shapeOf i) s →
    storeWords (bm.start (s.x 8 rn) (regList list).length)
      ((regList list).map (fun q => if q = 15#4 then s.pc + 12 else s.bankReg (if ub then .usr else s.cpsr.m) q)) s.begun =
        .error (.stop r t) →
    ∃ u, exec i s = .fault (.stop r u) ∧ u.mem = t.mem ∧ u.ioLog = t.ioLog ∧ u.save = t.save ∧ u.proxy = t.proxy)

/-! ### The savedata unit and the render proxy -/

/-- The Flash chip (R811, R812, R820 to R824). A byte access of the CPU routed to it is one operation of the command sequencer.
Programming: from idle, the stores AA at 5555, 55 at 2AAA, A0 at 5555, then `v` at `o` write exactly that byte of the selected
bank, set `writePending` and leave the sequencer idle. Erasing: once the erase prefix is taken, 10 at 5555 sets every byte of
the part to FF; 30 at offset `o` sets the 4 KiB sector of `o` in the selected bank to FF and no other byte; both end the erase. A
load reads the selected bank, and in identification mode the two identification bytes at offsets 0 and 1. (Where a `route` other
than the default passes an offset above 0xFFFF, that the access is taken at it as it stands is the model's choice, log 33.) -/
def Obligations.FlashWrites : Prop :=
  (∀ (kind : SaveKind) (x : Save) (o : Nat) (v : Byte), (kind = .flash64 ∨ kind = .flash128) → o < 0x10000 →
    (x.flash.command = .none → x.flash.pendingCommand = false → x.flash.unlock ≠ 2 →
      let y := flashStore8 kind
        (flashStore8 kind (flashStore8 kind (flashStore8 kind x 0x5555 0xAA) 0x2AAA 0x55) 0x5555 0xA0) o v
      (∀ j, y.buffer.read j = if j = x.flash.bank.val * 0x10000 + o then v else x.buffer.read j) ∧
      y.writePending = true ∧ y.flash = { x.flash with command := .none, unlock := 0 } ∧ y.eeprom = x.eeprom) ∧
    (x.flash.command = .erase →
      (∀ j < flashSize kind, (flashStore8 kind x 0x5555 0x10).buffer.read j = 0xFF) ∧
      (∀ j, (flashStore8 kind x o 0x30).buffer.read j =
        if x.flash.bank.val * 0x10000 + o / 0x1000 * 0x1000 ≤ j ∧
            j < x.flash.bank.val * 0x10000 + o / 0x1000 * 0x1000 + 0x1000 then 0xFF else x.buffer.read j) ∧
      (flashStore8 kind x 0x5555 0x10).writePending = true ∧ (flashStore8 kind x o 0x30).writePending = true ∧
      (flashStore8 kind x 0x5555 0x10).flash = { x.flash with command := .none, pendingCommand := false } ∧
      (flashStore8 kind x o 0x30).flash = { x.flash with command := .none, pendingCommand := false }) ∧
    flashLoad8 kind x o =
      (if x.flash.idMode = true ∧ o = 0 then (if kind = .flash128 then 0x62 else 0x32)
       else if x.flash.idMode = true ∧ o = 1 then (if kind = .flash128 then 0x13 else 0x1B)
       else x.buffer.read (x.flash.bank.val * 0x10000 + o))) ∧
  (∀ (a v : Word) (s : State) (o : Nat), (s.params.saveKind = .flash64 ∨ s.params.saveKind = .flash128) →
    classify s.params a = some (.save, o) →
    busStore .byte a v s = .ok { s with save := flashStore8 s.params.saveKind s.save o (v.extractLsb' 0 8) } ∧
    busLoad .byte a s = .ok ((flashLoad8 s.params.saveKind s.save o).setWidth 32, s))

/-- The width restrictions (R223, R810, R830): a 16- or 32-bit access of Flash and an 8- or 32-bit access of EEPROM is the
fault SavedataWidth with the chip and the width, no state changed, and no access of another width is; SRAM takes every width in
its range. -/
def Obligations.SavedataWidths : Prop :=
  ∀ (w : Width) (a v : Word) (s : State) (o : Nat), classify s.params a = some (.save, o) →
    ((s.params.saveKind = .flash64 ∨ s.params.saveKind = .flash128) → w ≠ .byte →
      busLoad w a s = .error (.stop (.savedataWidth s.params.saveKind w) s) ∧
      busStore w a v s = .error (.stop (.savedataWidth s.params.saveKind w) s)) ∧
    (s.params.saveKind = .eeprom → w ≠ .half →
      busLoad w a s = .error (.stop (.savedataWidth .eeprom w) s) ∧
      busStore w a v s = .error (.stop (.savedataWidth .eeprom w) s)) ∧
    ((s.params.saveKind = .eeprom ∧ w = .half) ∨ (s.params.saveKind ≠ .eeprom ∧ w = .byte) ∨ s.params.saveKind = .sram →
      ∀ k w' t, busLoad w a s ≠ .error (.stop (.savedataWidth k w') t) ∧
        busStore w a v s ≠ .error (.stop (.savedataWidth k w') t)) ∧
    (s.params.saveKind = .sram → o + w.bytes ≤ s.params.sramSize →
      ∃ t, busStore w a v s = .ok t ∧ t.save.writePending = true ∧
        (∀ j < w.bytes, t.save.buffer.read (o + j) = v.extractLsb' (8 * j) 8) ∧
        busLoad w a t = .ok (v &&& BitVec.ofNat 32 (2 ^ (8 * w.bytes) - 1), t))

/-- The EEPROM (R831 to R837). A 16-bit access routed to it is one bit of the protocol, whatever the offset. A store: in NULL and
READ a 1 opens a header; the second header bit selects the request and latches the address width, 6 or 14, from the DMA
transfer length, any other width the fault EepromAddressWidth; address bits shift into the cursor, the last one checked against
the part, a block beyond it the fault EepromRange; a data bit is written at the cursor; the stop bit of a write ends it and sets
`writePending`, that of a read opens the response of 68 bits. A load, in READ with 68 bits to go and DMA channel 3 enabled: the
first four give 0 and each of the next 64 the next bit of the block, most significant first; the last ends the read; elsewhere a
load gives 1 and changes nothing. Stated of one access at every point of the protocol. -/
def Obligations.EepromProtocol : Prop :=
  (∀ (p : Params) (count : Nat) (x : Save) (b : Bool) (width : Int), width = (count : Int) - (if b then 3 else 67) →
    (x.eeprom.command = .null ∨ x.eeprom.command = .read →
      eepromStore16 p count x b = .ok { x with eeprom := { x.eeprom with command := if b then .pending else .null } }) ∧
    (x.eeprom.command = .pending → x.eeprom.addressBits = 0 → width ≠ 6 → width ≠ 14 →
      eepromStore16 p count x b = .error (.eepromAddressWidth width)) ∧
    (∀ n : Nat, x.eeprom.command = .pending →
      (if x.eeprom.addressBits = 0 then (n = 6 ∨ n = 14) ∧ width = n else n = x.eeprom.addressBits) →
      eepromStore16 p count x b = .ok
        { x with
          eeprom := if b then
              { x.eeprom with addressBits := n, command := .readPending, commandBitsRemaining := n + 1, readAddress := 0 }
            else { x.eeprom with addressBits := n, command := .write, commandBitsRemaining := n + 65, writeAddress := 0 } }) ∧
    (∀ (r : Int) (cursor : Nat), r = x.eeprom.commandBitsRemaining - 1 → x.eeprom.command = .write →
      cursor = x.eeprom.writeAddress <<< 1 ||| b.toNat <<< 6 →
      (64 < r → (r = 65 → 8 * (cursor / 64) + 8 ≤ p.eepromSize) →
        eepromStore16 p count x b = .ok
          { x with eeprom := { x.eeprom with commandBitsRemaining := r, writeAddress := cursor } }) ∧
      (r = 65 → p.eepromSize < 8 * (cursor / 64) + 8 → eepromStore16 p count x b = .error (.eepromRange (cursor / 64))) ∧
      (r = 0 → eepromStore16 p count x b = .ok
        { x with eeprom := { x.eeprom with commandBitsRemaining := 0, command := .null }, writePending := true }) ∧
      (1 ≤ r → r ≤ 64 → ∃ y, eepromStore16 p count x b = .ok y ∧ y = { x with
          buffer := y.buffer
          eeprom := { x.eeprom with commandBitsRemaining := r, writeAddress := x.eeprom.writeAddress + 1 } } ∧
        ∀ j n, n < 8 → (y.buffer.read j).getLsbD n =
          if j = x.eeprom.writeAddress / 8 ∧ n = 7 - x.eeprom.writeAddress % 8 then b else (x.buffer.read j).getLsbD n)) ∧
    (∀ (r : Int) (cursor : Nat), r = x.eeprom.commandBitsRemaining - 1 → x.eeprom.command = .readPending →
      cursor = x.eeprom.readAddress <<< 1 ||| b.toNat <<< 6 →
      (0 < r → (r = 1 → 8 * (cursor / 64) + 8 ≤ p.eepromSize) →
        eepromStore16 p count x b = .ok
          { x with eeprom := { x.eeprom with commandBitsRemaining := r, readAddress := cursor } }) ∧
      (r = 1 → p.eepromSize < 8 * (cursor / 64) + 8 → eepromStore16 p count x b = .error (.eepromRange (cursor / 64))) ∧
      (r ≤ 0 → eepromStore16 p count x b = .ok
        { x with eeprom := { x.eeprom with commandBitsRemaining := r, command := .read, readBitsRemaining := 68 } }))) ∧
  (∀ (x : Save) (n : Nat), x.eeprom.command = .read → 1 ≤ n → n ≤ 68 → x.eeprom.readBitsRemaining = n →
    (eepromLoad16 true x).2 =
      { x with eeprom := { x.eeprom with readBitsRemaining := (n : Int) - 1, command := if n = 1 then .null else .read } } ∧
    (64 < n → (eepromLoad16 true x).1 = 0) ∧
    (n ≤ 64 → (eepromLoad16 true x).1 =
      if (x.buffer.read ((x.eeprom.readAddress + (64 - n)) / 8)).getLsbD (7 - (x.eeprom.readAddress + (64 - n)) % 8)
        then 1 else 0)) ∧
  (∀ (enable : Bool) (x : Save), x.eeprom.command ≠ .read ∨ enable = false → eepromLoad16 enable x = (1, x)) ∧
  (∀ (a v : Word) (s : State) (o : Nat), s.params.saveKind = .eeprom → classify s.params a = some (.save, o) →
    busLoad .half a s =
      .ok ((eepromLoad16 s.dma3Enable s.save).1, { s with save := (eepromLoad16 s.dma3Enable s.save).2 }) ∧
    (∀ y, eepromStore16 s.params s.dma3Count s.save (v.getLsbD 0) = .ok y →
      busStore .half a v s = .ok { s with save := y }) ∧
    (∀ r, eepromStore16 s.params s.dma3Count s.save (v.getLsbD 0) = .error r →
      busStore .half a v s = .error (.stop r s)))

/-- Stores to and loads from the render proxy (R851 to R853): misaligned or beyond the region, the fault ProxyAccess. Within the
region and aligned, a store writes the low bytes little-endian and no other byte of any region, and marks exactly its block,
palette or OAM dirty; with `proxyByteStore` = mirrorHalfword a byte store writes both bytes of the halfword, and in OAM nothing,
marking nothing (at the last offset of a region of odd size the byte beyond it too is the model's choice, log 35). An access of
the CPU routed to palette, VRAM or OAM is that store, or returns the shadow's bytes with no side
effect. -/
def Obligations.ProxyStore : Prop :=
  (∀ (p : Params) (x : Proxy) (r : ProxyRegion) (o : Nat) (w : Width) (v : Word),
    (¬ (o % w.bytes = 0 ∧ o + w.bytes ≤ proxySize p r) → proxyStore p x r o w v = .error (.proxyAccess r o w.bytes)) ∧
    (o % w.bytes = 0 → o + w.bytes ≤ proxySize p r → ∃ y, proxyStore p x r o w v = .ok y ∧
      (w ≠ .byte ∨ p.proxyByteStore = .single →
        (∀ j, Memory.readZ (y.region r) j =
          if o ≤ j ∧ j < o + w.bytes then v.extractLsb' (8 * (j - o)) 8 else Memory.readZ (x.region r) j)) ∧
      (w = .byte → p.proxyByteStore = .mirrorHalfword → r ≠ .oam →
        (∀ j, Memory.readZ (y.region r) j =
          if j / 2 = o / 2 then v.extractLsb' 0 8 else Memory.readZ (x.region r) j)) ∧
      (w = .byte → p.proxyByteStore = .mirrorHalfword → r = .oam → y = x) ∧
      (∀ r', r' ≠ r → y.region r' = x.region r') ∧
      ((r ≠ .oam ∨ w ≠ .byte ∨ p.proxyByteStore = .single) →
        (r = .palette → y.dirtyPalette = true) ∧ (r = .oam → y.dirtyOam = true) ∧
        (r = .vram → ∀ k, k ∈ y.dirtyVram ↔ k = o / 2 ^ p.vramBlockShift ∨ k ∈ x.dirtyVram)) ∧
      (r ≠ .palette → y.dirtyPalette = x.dirtyPalette) ∧ (r ≠ .oam → y.dirtyOam = x.dirtyOam) ∧
      (r ≠ .vram → y.dirtyVram = x.dirtyVram) ∧
      y = { x with palette := y.palette, vram := y.vram, oam := y.oam, dirtyPalette := y.dirtyPalette,
                   dirtyOam := y.dirtyOam, dirtyVram := y.dirtyVram })) ∧
  (∀ (s : State) (r : ProxyRegion) (region : Region) (o : Nat) (w : Width) (a v : Word),
    (r = .palette ∧ region = .palette ∨ r = .vram ∧ region = .vram ∨ r = .oam ∧ region = .oam) →
    classify s.params a = some (region, o) →
    (∀ y, proxyStore s.params s.proxy r o w v = .ok y → busStore w a v s = .ok { s with proxy := y }) ∧
    (¬ (o % w.bytes = 0 ∧ o + w.bytes ≤ proxySize s.params r) →
      busStore w a v s = .error (.stop (.proxyAccess r o w.bytes) s) ∧
      busLoad w a s = .error (.stop (.proxyAccess r o w.bytes) s)) ∧
    (o % w.bytes = 0 → o + w.bytes ≤ proxySize s.params r → ∃ value, busLoad w a s = .ok (value, s) ∧
      ∀ j < 4, value.extractLsb' (8 * j) 8 = if j < w.bytes then Memory.readZ (s.proxy.region r) (o + j) else 0#8))

/-- `drawScanline` (R862): nothing while frames are skipped or where nothing is dirty; else one record is queued that holds
copies of what is dirty, its VRAM blocks byte for byte, and the dirty set is empty. The frame-skip backpressure (R863 to
R866): `startDraw` counts the frame and, unless frames stay skipped, takes it in flight and posts start; `finishDraw` of a
frame not skipped posts the queue, empties it and skips the next frame once more than two are in flight; of a skipped one it
does nothing. A reply to a posted finish message takes one frame out of flight and hands its backing to the host; with none
unanswered there is no reply to deliver (`awaiting`, the count of those, is the model's, log 19). -/
def Obligations.RenderFrames : Prop :=
  ∀ (p : Params) (x : Proxy),
    (∀ y : Nat,
      (x.skipFrame = true ∨ x.clean = true → x.drawScanline p y = x) ∧
      (x.skipFrame = false → x.clean = false →
        ∃ rec, (x.drawScanline p y).queue = x.queue ++ [rec] ∧ (x.drawScanline p y).clean = true ∧
          rec.y = y ∧ rec.regs = x.dirtyRegs ∧
          rec.palette = (if x.dirtyPalette then some x.palette else none) ∧
          rec.oam = (if x.dirtyOam then some x.oam else none) ∧
          rec.vram.map Prod.fst = x.dirtyVram ∧
          (∀ k b, (k, b) ∈ rec.vram → ∀ o, Memory.readZ b o =
            if o / 2 ^ p.vramBlockShift = k then Memory.readZ x.vram o else 0#8) ∧
          (x.drawScanline p y).palette = x.palette ∧ (x.drawScanline p y).vram = x.vram ∧
          (x.drawScanline p y).oam = x.oam ∧ (x.drawScanline p y).delay = x.delay)) ∧
    (x.startDraw p).currentFrame = x.currentFrame + 1 ∧
    (x.startDraw p).skipFrame = (x.skipFrame && decide (p.skipResume < x.delay)) ∧
    ((x.startDraw p).skipFrame = false →
      (x.startDraw p).delay = x.delay + 1 ∧ (x.startDraw p).posted = x.posted ++ [.start x.backing]) ∧
    ((x.startDraw p).skipFrame = true → (x.startDraw p).delay = x.delay ∧ (x.startDraw p).posted = x.posted) ∧
    (x.skipFrame = true → x.finishDraw = x) ∧
    (x.skipFrame = false →
      x.finishDraw.posted = x.posted ++ [.finish x.queue x.currentFrame] ∧ x.finishDraw.queue = [] ∧
      x.finishDraw.skipFrame = decide (2 < x.delay) ∧ x.finishDraw.delay = x.delay ∧
      x.finishDraw.awaiting = x.awaiting + 1) ∧
    (∀ (s : State) (h : Nat), s.proxy = x →
      (x.awaiting = 0 → hostStep (.workerReply h) s = .ok s) ∧
      (0 < x.awaiting → hostStep (.workerReply h) s = .ok
        { s with
          proxy := { x with delay := x.delay - 1, backing := some h, awaiting := x.awaiting - 1 }
          outputs := s.outputs ++ [.frame h] }))
end

