-- ==== Sys2Proof/Laws/Encoding.lean ====
section
/-! SUPPORT. Fields of words put together from fields: what the decoder reads from an encoder's word. -/

namespace Sys2Proof

@[simp] theorem field_or {m : Nat} (a b : BitVec m) (lo n : Nat) : field (a ||| b) lo n = field a lo n ||| field b lo n := by
  ext i hi
  simp [field]

@[simp] theorem bitAt_or {m : Nat} (a b : BitVec m) (i : Nat) : bitAt (a ||| b) i = (bitAt a i || bitAt b i) := by
  simp [bitAt]

/-- The field of a placed field, at the same place. -/
@[simp] theorem field_put_same {m n : Nat} (lo : Nat) (x : BitVec n) (h : lo + n ≤ m) : field (put m lo x) lo n = x := by
  ext i hi
  simp only [field, put, BitVec.getElem_extractLsb', BitVec.getLsbD_shiftLeft, BitVec.getLsbD_setWidth]
  have h1 : lo + i < m := by omega
  have h2 : i < m := by omega
  simp [h1, h2, BitVec.getLsbD_eq_getElem hi]

/-- A field above or below a placed field is zero. -/
theorem field_put_below {m n k : Nat} (lo lo' : Nat) (x : BitVec n) (h : lo' + k ≤ lo) :
    field (put m lo x) lo' k = 0#k := by
  ext i hi
  simp [field, put]
  omega

theorem field_put_above {m n k : Nat} (lo lo' : Nat) (x : BitVec n) (h : lo + n ≤ lo') :
    field (put m lo x) lo' k = 0#k := by
  ext i hi
  simp only [field, put, BitVec.getElem_extractLsb', BitVec.getLsbD_shiftLeft, BitVec.getLsbD_setWidth,
    BitVec.getElem_zero]
  rw [BitVec.getLsbD_of_ge x _ (by omega)]
  simp

/-- A field that holds a placed field within it. -/
theorem field_put_inside {m n k : Nat} (lo lo' : Nat) (x : BitVec n) (h1 : lo' ≤ lo) (_h2 : lo + n ≤ lo' + k)
    (h3 : lo' + k ≤ m) : field (put m lo x) lo' k = put k (lo - lo') x := by
  ext i hi
  simp only [field, put, BitVec.getElem_extractLsb', BitVec.getLsbD_shiftLeft, BitVec.getLsbD_setWidth,
    BitVec.getElem_shiftLeft, BitVec.getElem_setWidth]
  by_cases hlt : i < lo - lo'
  · have : lo' + i < lo := by omega
    simp [hlt, this]
  · have h4 : ¬lo' + i < lo := by omega
    have h5 : lo' + i < m := by omega
    have h6 : lo' + i - lo = i - (lo - lo') := by omega
    have h7 : i - (lo - lo') < m := by omega
    simp [hlt, h4, h5, h6, h7]

/-- A field within a placed field. -/
theorem field_put_within {m n k : Nat} (lo lo' : Nat) (x : BitVec n) (h1 : lo ≤ lo') (h2 : lo' + k ≤ lo + n)
    (h3 : lo + n ≤ m) : field (put m lo x) lo' k = field x (lo' - lo) k := by
  ext i hi
  simp only [field, put, BitVec.getElem_extractLsb', BitVec.getLsbD_shiftLeft, BitVec.getLsbD_setWidth]
  have h4 : ¬lo' + i < lo := by omega
  have h5 : lo' + i < m := by omega
  have h6 : lo' + i - lo = lo' - lo + i := by omega
  have h7 : lo' - lo + i < m := by omega
  simp [h4, h5, h6, h7]

@[simp] theorem bitAt_put {m n : Nat} (lo i : Nat) (x : BitVec n) (h : lo + n ≤ m) :
    bitAt (put m lo x) i = (decide (lo ≤ i) && x.getLsbD (i - lo)) := by
  simp only [bitAt, put, BitVec.getLsbD_shiftLeft, BitVec.getLsbD_setWidth]
  by_cases h1 : lo ≤ i
  · by_cases h2 : i - lo < n
    · have h3 : i < m := by omega
      have h4 : ¬i < lo := by omega
      have h5 : i - lo < m := by omega
      simp [h1, h3, h4, h5]
    · rw [BitVec.getLsbD_of_ge x _ (by omega)]
      simp
  · have h2 : i < lo := by omega
    simp [h1, h2]

@[simp] theorem Cond.ofBits_toBits (c : Cond) : Cond.ofBits c.toBits = c := by cases c <;> rfl
@[simp] theorem ShiftKind.ofBits_toBits (c : ShiftKind) : ShiftKind.ofBits c.toBits = c := by cases c <;> rfl
@[simp] theorem DpOp.ofBits_toBits (c : DpOp) : DpOp.ofBits c.toBits = c := by cases c <;> rfl

theorem Cond.toBits_ofBits (b : BitVec 4) : (Cond.ofBits b).toBits = b := by revert b; decide
theorem ShiftKind.toBits_ofBits (b : BitVec 2) : (ShiftKind.ofBits b).toBits = b := by revert b; decide
theorem DpOp.toBits_ofBits (b : BitVec 4) : (DpOp.ofBits b).toBits = b := by revert b; decide

/-- A register of format 5 from its two parts (R340). -/
theorem hiReg_parts (m : RegNum) : hiReg (bitAt m 3) (field m 0 3) = m := by
  revert m
  decide

/-! ### The data-processing words -/

/-- The decoder reads back a DP immediate word. -/
theorem decodeArm_dpImmWord (op : DpOp) (c : Cond) (f : Bool) (rn rd : RegNum) (rot : BitVec 4) (imm : BitVec 8) (h : (op.isCompare && !f) = false) :
    decodeArm (dpImmWord op.toBits c f rn rd rot imm) = some (.dpImm op c f rn rd rot imm) := by
  have h0 : field (dpImmWord op.toBits c f rn rd rot imm) 28 4 = c.toBits := by simp [dpImmWord, putBit, field_put_above]
  have h1 : field (dpImmWord op.toBits c f rn rd rot imm) 25 3 = 1#3 := by simp [dpImmWord, putBit, field_put_below, field_put_above]
  have h2 : field (dpImmWord op.toBits c f rn rd rot imm) 21 4 = op.toBits := by simp [dpImmWord, putBit, field_put_below, field_put_above]
  have h3 : bitAt (dpImmWord op.toBits c f rn rd rot imm) 20 = f := by simp [dpImmWord, putBit]
  simp only [decodeArm, h0, h1, decodeArmDpImm, h2, h3, DpOp.ofBits_toBits, Cond.ofBits_toBits, h]
  simp [dpImmWord, putBit, field_put_below, field_put_above]

/-- The decoder reads back a DP word with an immediate shift. -/
theorem decodeArm_dpShiftImmWord (op : DpOp) (c : Cond) (f : Bool) (rn rd : RegNum) (amt : BitVec 5) (sh : ShiftKind) (rm : RegNum) (h : (op.isCompare && !f) = false) :
    decodeArm (dpShiftImmWord op.toBits c f rn rd amt sh rm) = some (.dpShiftImm op c f rn rd amt sh rm) := by
  have h0 : field (dpShiftImmWord op.toBits c f rn rd amt sh rm) 28 4 = c.toBits := by simp [dpShiftImmWord, putBit, field_put_above]
  have h1 : field (dpShiftImmWord op.toBits c f rn rd amt sh rm) 25 3 = 0#3 := by simp [dpShiftImmWord, putBit, field_put_below, field_put_above]
  have h2 : field (dpShiftImmWord op.toBits c f rn rd amt sh rm) 21 4 = op.toBits := by simp [dpShiftImmWord, putBit, field_put_below, field_put_above]
  have h3 : bitAt (dpShiftImmWord op.toBits c f rn rd amt sh rm) 20 = f := by simp [dpShiftImmWord, putBit]
  have h4 : bitAt (dpShiftImmWord op.toBits c f rn rd amt sh rm) 4 = false := by simp [dpShiftImmWord, putBit]
  simp only [decodeArm, h0, h1, h4, decodeArmShiftImm, h2, h3, DpOp.ofBits_toBits, Cond.ofBits_toBits, h]
  simp [dpShiftImmWord, putBit, field_put_below, field_put_above]

/-- The decoder reads back a DP word with a register shift. -/
theorem decodeArm_dpShiftRegWord (op : DpOp) (c : Cond) (f : Bool) (rn rd rs : RegNum) (sh : ShiftKind) (rm : RegNum) (h : (op.isCompare && !f) = false) :
    decodeArm (dpShiftRegWord op.toBits c f rn rd rs sh rm) = some (.dpShiftReg op c f rn rd rs sh rm) := by
  have h0 : field (dpShiftRegWord op.toBits c f rn rd rs sh rm) 28 4 = c.toBits := by simp [dpShiftRegWord, putBit, field_put_above]
  have h1 : field (dpShiftRegWord op.toBits c f rn rd rs sh rm) 25 3 = 0#3 := by simp [dpShiftRegWord, putBit, field_put_below, field_put_above]
  have h2 : field (dpShiftRegWord op.toBits c f rn rd rs sh rm) 21 4 = op.toBits := by simp [dpShiftRegWord, putBit, field_put_below, field_put_above]
  have h3 : bitAt (dpShiftRegWord op.toBits c f rn rd rs sh rm) 20 = f := by simp [dpShiftRegWord, putBit]
  have h4 : bitAt (dpShiftRegWord op.toBits c f rn rd rs sh rm) 4 = true := by simp [dpShiftRegWord, putBit]
  have h5 : bitAt (dpShiftRegWord op.toBits c f rn rd rs sh rm) 7 = false := by simp [dpShiftRegWord, putBit]
  simp only [decodeArm, h0, h1, h4, h5, decodeArmShiftReg, h2, h3, DpOp.ofBits_toBits, Cond.ofBits_toBits, h]
  simp [dpShiftRegWord, putBit, field_put_below, field_put_above]

/-! ### The two instruction sets -/

theorem dpImm_isThumb (op : DpOp) (c : Cond) (f : Bool) (rn rd : RegNum) (rot : BitVec 4) (imm : BitVec 8) :
    (Instr.dpImm op c f rn rd rot imm).isThumb = false := by cases op <;> rfl

theorem dpShiftImm_isThumb (op : DpOp) (c : Cond) (f : Bool) (rn rd : RegNum) (amt : BitVec 5) (sh : ShiftKind)
    (rm : RegNum) : (Instr.dpShiftImm op c f rn rd amt sh rm).isThumb = false := by cases op <;> rfl

theorem dpShiftReg_isThumb (op : DpOp) (c : Cond) (f : Bool) (rn rd rs : RegNum) (sh : ShiftKind) (rm : RegNum) :
    (Instr.dpShiftReg op c f rn rd rs sh rm).isThumb = false := by cases op <;> rfl

/-- An ARM word decodes to an ARM instruction. -/
theorem decodeArm_isThumb {w : Word} {i : Instr} (h : decodeArm w = some i) : i.isThumb = false := by
  simp only [decodeArm] at h
  split at h
  · split at h
    · simp only [decodeArmShiftImm] at h
      repeat' split at h
      all_goals first | (cases h; first | rfl | exact dpShiftImm_isThumb ..) | cases h
    · split at h
      · simp only [decodeArmShiftReg] at h
        repeat' split at h
        all_goals first | (cases h; first | rfl | exact dpShiftReg_isThumb ..) | cases h
      · split at h
        · simp only [decodeArmMultiply] at h
          repeat' split at h
          all_goals first | (cases h; rfl) | cases h
        · simp only [decodeArmHalf] at h
          repeat' split at h
          all_goals first | (cases h; rfl) | cases h
  · simp only [decodeArmDpImm] at h
    repeat' split at h
    all_goals first | (cases h; first | rfl | exact dpImm_isThumb ..) | cases h
  · cases h
    simp only [decodeArmSdtImm]
    repeat' split
    all_goals rfl
  · cases h
    simp only [decodeArmSdtReg]
    repeat' split
    all_goals rfl
  · cases h
    simp only [decodeArmBlock]
    repeat' split
    all_goals rfl
  · cases h
    split <;> rfl
  · cases h
    split <;> rfl
  · cases h
    simp only [decodeArmSwiCoproc]
    repeat' split
    all_goals rfl

/-- A Thumb halfword decodes to a Thumb instruction. -/
theorem decodeThumb_isThumb {w : Half} {i : Instr} (h : decodeThumb w = some i) : i.isThumb = true := by
  simp only [decodeThumb, decodeThumbHi, decodeThumbAlu, decodeThumbRegOffset, decodeThumbCondLow, decodeThumbCondHigh] at h
  repeat' split at h
  all_goals first | (cases h; rfl) | cases h

end Sys2Proof
end

