-- ==== Sys2Proof/Laws/Memory.lean ====
section
/-! SUPPORT. The laws of sparse data (Assoc.lean): a read after a write gives the value written, a write leaves every other key
alone, and every operation keeps the canonical form. -/

namespace Sys2Proof.Machine

/-! ### Reading after writing -/

theorem Assoc.get?_set {α : Type} (m : Assoc α) (a b : Nat) (v : α) :
    Assoc.get? (Assoc.set m a v) b = if a = b then some v else Assoc.get? m b := by
  induction m with
  | nil => simp [Assoc.set, Assoc.get?]
  | cons e rest ih =>
    obtain ⟨k, w⟩ := e
    simp only [Assoc.set]
    split
    · simp [Assoc.get?]
    · split
      · subst_vars
        simp only [Assoc.get?]
        split <;> rfl
      · simp only [Assoc.get?, ih]
        split <;> split <;> first | rfl | omega

theorem Assoc.get?_erase {α : Type} (m : Assoc α) (a b : Nat) :
    Assoc.get? (Assoc.erase m a) b = if a = b then none else Assoc.get? m b := by
  induction m with
  | nil => simp [Assoc.erase, Assoc.get?]
  | cons e rest ih =>
    obtain ⟨k, w⟩ := e
    simp only [Assoc.erase, List.filter] at ih ⊢
    by_cases hk : k = a
    · subst hk
      simp only [bne_self_eq_false, ih, Assoc.get?]
      split <;> rfl
    · have : (k != a) = true := by simpa using hk
      simp only [this, Assoc.get?, ih]
      split <;> split <;> first | rfl | omega

/-! ### The canonical form -/

theorem Assoc.sortedFrom_mono {α : Type} (m : Assoc α) {lo lo' : Nat} (h : lo ≤ lo') (hs : Assoc.sortedFrom lo' m = true) :
    Assoc.sortedFrom lo m = true := by
  cases m with
  | nil => rfl
  | cons e rest =>
    obtain ⟨k, w⟩ := e
    simp only [Assoc.sortedFrom, Bool.and_eq_true, decide_eq_true_eq] at hs ⊢
    exact ⟨by omega, hs.2⟩

theorem Assoc.sortedFrom_set {α : Type} (m : Assoc α) (lo a : Nat) (v : α) (ha : lo ≤ a)
    (hs : Assoc.sortedFrom lo m = true) : Assoc.sortedFrom lo (Assoc.set m a v) = true := by
  induction m generalizing lo with
  | nil => simpa [Assoc.set, Assoc.sortedFrom] using ha
  | cons e rest ih =>
    obtain ⟨k, w⟩ := e
    simp only [Assoc.sortedFrom, Bool.and_eq_true, decide_eq_true_eq] at hs
    simp only [Assoc.set]
    split
    · simp only [Assoc.sortedFrom, Bool.and_eq_true, decide_eq_true_eq]
      exact ⟨ha, by omega, hs.2⟩
    · split
      · subst_vars
        simp only [Assoc.sortedFrom, Bool.and_eq_true, decide_eq_true_eq]
        exact hs
      · simp only [Assoc.sortedFrom, Bool.and_eq_true, decide_eq_true_eq]
        exact ⟨hs.1, ih (k + 1) (by omega) hs.2⟩

theorem Assoc.sortedFrom_filter {α : Type} (m : Assoc α) (lo : Nat) (f : Nat × α → Bool)
    (hs : Assoc.sortedFrom lo m = true) : Assoc.sortedFrom lo (m.filter f) = true := by
  induction m generalizing lo with
  | nil => rfl
  | cons e rest ih =>
    obtain ⟨k, w⟩ := e
    simp only [Assoc.sortedFrom, Bool.and_eq_true, decide_eq_true_eq] at hs
    simp only [List.filter]
    split
    · simp only [Assoc.sortedFrom, Bool.and_eq_true, decide_eq_true_eq]
      exact ⟨hs.1, ih _ hs.2⟩
    · exact ih lo (Assoc.sortedFrom_mono rest (by omega) hs.2)

theorem Assoc.sorted_set {α : Type} (m : Assoc α) (a : Nat) (v : α) (h : m.sorted = true) :
    (Assoc.set m a v).sorted = true := Assoc.sortedFrom_set m 0 a v (Nat.zero_le _) h

theorem Assoc.sorted_filter {α : Type} (m : Assoc α) (f : Nat × α → Bool) (h : m.sorted = true) :
    Assoc.sorted (m.filter f) = true := Assoc.sortedFrom_filter m 0 f h

theorem Assoc.sorted_erase {α : Type} (m : Assoc α) (a : Nat) (h : m.sorted = true) :
    (Assoc.erase m a).sorted = true := Assoc.sorted_filter m _ h

/-- Every entry of `Assoc.set m a v` is the new one or an entry of `m` with another key or an entry of `m`. -/
theorem Assoc.mem_set {α : Type} (m : Assoc α) (a : Nat) (v : α) (e : Nat × α) (h : e ∈ Assoc.set m a v) :
    e = (a, v) ∨ e ∈ m := by
  induction m with
  | nil => simpa [Assoc.set] using h
  | cons x rest ih =>
    obtain ⟨k, w⟩ := x
    simp only [Assoc.set] at h
    split at h
    · simpa using h
    · split at h
      · simp only [List.mem_cons] at h ⊢
        tauto
      · simp only [List.mem_cons] at h ⊢
        rcases h with h | h
        · tauto
        · rcases ih h with h | h <;> tauto

theorem Memory.wf_write (m : Memory) (a : Nat) (v : Byte) (h : m.wf = true) : (m.write a v).wf = true :=
  Assoc.sorted_set m a v h

/-- Keeping a property through a fold over cells. -/
theorem foldl_keeps {β : Type} (f : β → Host.Cell → β) (P : β → Prop) (cells : List Host.Cell)
    (hstep : ∀ b, ∀ e ∈ cells, P b → P (f b e)) (b : β) (hb : P b) : P (cells.foldl f b) := by
  induction cells generalizing b with
  | nil => exact hb
  | cons e rest ih =>
    exact ih (fun b x hx => hstep b x (List.mem_cons_of_mem e hx)) _ (hstep b e List.mem_cons_self hb)

theorem Memory.wf_writeN (m : Memory) (a n : Nat) (v : Word) (h : m.wf = true) : (m.writeN a n v).wf = true :=
  foldl_keeps _ (fun m => Memory.wf m = true) _ (fun m e _ hm => Memory.wf_write m e.1 e.2 hm) m h

/-! ### Bytes of external memory -/

theorem Memory.read_write (m : Memory) (a b : Nat) (v : Byte) :
    (m.write a v).read b = if a = b then some v else m.read b := Assoc.get?_set m a b v

/-- The last of the cells with key `b` decides what a fold of writes reads at `b`. -/
theorem cellsOf_succ (a n : Nat) (v : Word) : cellsOf a (n + 1) v = cellsOf a n v ++ [(a + n, byteOf v n)] := by
  simp [cellsOf, List.range_succ]

theorem Memory.writeN_succ (m : Memory) (a n : Nat) (v : Word) :
    m.writeN a (n + 1) v = (m.writeN a n v).write (a + n) (byteOf v n) := by
  simp [Memory.writeN, cellsOf_succ, List.foldl_append]

/-- What a byte reads after a store of `n` bytes (R202, R205). -/
theorem Memory.read_writeN (m : Memory) (a n b : Nat) (v : Word) :
    (m.writeN a n v).read b = if a ≤ b ∧ b < a + n then some (byteOf v (b - a)) else m.read b := by
  induction n with
  | zero =>
    have : ¬(a ≤ b ∧ b < a + 0) := by omega
    rw [if_neg this]
    rfl
  | succ n ih =>
    rw [Memory.writeN_succ, Memory.read_write, ih]
    by_cases h : a + n = b
    · subst h
      simp
    · by_cases h2 : a ≤ b ∧ b < a + n
      · rw [if_neg h, if_pos h2, if_pos (by omega)]
      · rw [if_neg h, if_neg h2, if_neg (by omega)]

/-- Reading `n` bytes that are all written. -/
theorem Memory.readFrom_ok (m : Memory) (a : Nat) (f : Nat → Byte) (n i : Nat)
    (h : ∀ j, i ≤ j → j < i + n → m.read (a + j) = some (f j)) :
    m.readFrom a i n = .ok ((List.range' i n).map f) := by
  induction n generalizing i with
  | zero => rfl
  | succ n ih =>
    rw [Memory.readFrom, h i (by omega) (by omega), ih (i + 1) (fun j hj hj' => h j (by omega) (by omega))]
    simp [List.range'_succ]

theorem Memory.readN_ok (m : Memory) (a n : Nat) (f : Nat → Byte) (h : ∀ j < n, m.read (a + j) = some (f j)) :
    m.readN a n = .ok (wordOfBytes ((List.range n).map f)) := by
  rw [Memory.readN, Memory.readFrom_ok m a f n 0 (fun j _ hj => h j (by omega)), List.range_eq_range']

/-- Bit `j` of a value read from bytes is bit `j % 8` of byte `j / 8` (R205). -/
theorem getLsbD_wordOfBytes (bs : List Byte) (j : Nat) (hj : j < 32) :
    (wordOfBytes bs).getLsbD j = ((bs[j / 8]?).getD 0#8).getLsbD (j % 8) := by
  induction bs generalizing j with
  | nil => simp [wordOfBytes]
  | cons b rest ih =>
    simp only [wordOfBytes, BitVec.getLsbD_or, BitVec.getLsbD_setWidth, BitVec.getLsbD_shiftLeft]
    by_cases h : j < 8
    · have h0 : j / 8 = 0 := by omega
      have h1 : j % 8 = j := by omega
      simp [h, hj, h0, h1]
    · have h0 : j / 8 = (j - 8) / 8 + 1 := by omega
      have h1 : (j - 8) % 8 = j % 8 := by omega
      simp [h, hj, h0, ih (j - 8) (by omega), h1, BitVec.getLsbD_of_ge b j (by omega)]

/-- The bytes of a word, put together again. -/
theorem wordOfBytes_byteOf (n : Nat) (v : Word) :
    wordOfBytes ((List.range n).map (byteOf v)) = v &&& BitVec.ofNat 32 (2 ^ (8 * n) - 1) := by
  refine BitVec.eq_of_getLsbD_eq fun j hj => ?_
  rw [getLsbD_wordOfBytes _ _ hj, BitVec.getLsbD_and, BitVec.getLsbD_ofNat, Nat.testBit_two_pow_sub_one]
  by_cases h : j / 8 < n
  · have h1 : j < 8 * n := by omega
    have h2 : 8 * (j / 8) + j % 8 = j := by omega
    have h3 : j % 8 < 8 := by omega
    simp [h, byteOf, hj, h1, h2, h3]
  · have h1 : ¬j < 8 * n := by omega
    simp [h, h1]

/-- Loading the bytes a store wrote gives the stored value's low bytes (R205, R240). -/
theorem Memory.readN_writeN (m : Memory) (a n : Nat) (v : Word) :
    (m.writeN a n v).readN a n = .ok (v &&& BitVec.ofNat 32 (2 ^ (8 * n) - 1)) := by
  rw [Memory.readN_ok _ a n (byteOf v), wordOfBytes_byteOf]
  intro j hj
  rw [Memory.read_writeN, if_pos (by omega)]
  congr 2
  omega

/-- A store leaves what other keys hold alone. -/
theorem Memory.readN_congr (m m' : Memory) (a n : Nat) (h : ∀ j < n, m.read (a + j) = m'.read (a + j)) :
    m.readN a n = m'.readN a n := by
  have : ∀ k i, i + k ≤ n → m.readFrom a i k = m'.readFrom a i k := by
    intro k
    induction k with
    | zero => intro i _; rfl
    | succ k ih => intro i hi; simp only [Memory.readFrom, h i (by omega), ih (i + 1) (by omega)]
  simp only [Memory.readN, this n 0 (by omega)]

/-! ### Shadow regions -/

theorem Memory.readZ_writeZ (m : Memory) (a b : Nat) (v : Byte) :
    (m.writeZ a v).readZ b = if a = b then v else m.readZ b := by
  simp only [Memory.writeZ, Memory.readZ]
  split
  · subst_vars
    rw [Assoc.get?_erase]
    split <;> rfl
  · rw [Assoc.get?_set]
    split <;> rfl

theorem Memory.writeNZ_succ (m : Memory) (a n : Nat) (v : Word) :
    m.writeNZ a (n + 1) v = (m.writeNZ a n v).writeZ (a + n) (byteOf v n) := by
  simp [Memory.writeNZ, cellsOf_succ, List.foldl_append]

/-- What a byte of a shadow region reads after a store of `n` bytes (R851). -/
theorem Memory.readZ_writeNZ (m : Memory) (a n b : Nat) (v : Word) :
    (m.writeNZ a n v).readZ b = if a ≤ b ∧ b < a + n then byteOf v (b - a) else m.readZ b := by
  induction n with
  | zero =>
    rw [if_neg (by omega)]
    rfl
  | succ n ih =>
    rw [Memory.writeNZ_succ, Memory.readZ_writeZ, ih]
    by_cases h : a + n = b
    · subst h
      simp
    · by_cases h2 : a ≤ b ∧ b < a + n
      · rw [if_neg h, if_pos h2, if_pos (by omega)]
      · rw [if_neg h, if_neg h2, if_neg (by omega)]

theorem Memory.wfZ_writeZ (size : Nat) (m : Memory) (a : Nat) (v : Byte) (ha : a < size) (h : m.wfZ size = true) :
    (m.writeZ a v).wfZ size = true := by
  simp only [Memory.wfZ, Bool.and_eq_true, List.all_eq_true] at h ⊢
  simp only [Memory.writeZ]
  split
  · exact ⟨Assoc.sorted_erase m a h.1, fun e he => h.2 e (List.mem_of_mem_filter he)⟩
  · refine ⟨Assoc.sorted_set m a v h.1, fun e he => ?_⟩
    rcases Assoc.mem_set m a v e he with rfl | he
    · simpa using ⟨ha, by assumption⟩
    · exact h.2 e he

theorem Memory.wfZ_writeNZ (size : Nat) (m : Memory) (a n : Nat) (v : Word) (ha : a + n ≤ size) (h : m.wfZ size = true) :
    (m.writeNZ a n v).wfZ size = true := by
  refine foldl_keeps _ (fun m => Memory.wfZ size m = true) _ (fun m e he hm => Memory.wfZ_writeZ size m e.1 e.2 ?_ hm) m h
  simp only [cellsOf, List.mem_map, List.mem_range] at he
  obtain ⟨i, hi, rfl⟩ := he
  show a + i < size
  omega

theorem Memory.wfZ_filter (size : Nat) (m : Memory) (f : Host.Cell → Bool) (h : m.wfZ size = true) :
    Memory.wfZ size (m.filter f) = true := by
  simp only [Memory.wfZ, Bool.and_eq_true, List.all_eq_true] at h ⊢
  exact ⟨Assoc.sorted_filter m f h.1, fun e he => h.2 e (List.mem_of_mem_filter he)⟩

/-! ### Sets of numbers -/

theorem mem_insertNat (a b : Nat) (l : List Nat) : b ∈ insertNat a l ↔ b = a ∨ b ∈ l := by
  induction l with
  | nil => simp [insertNat]
  | cons k rest ih =>
    simp only [insertNat]
    split
    · simp
    · split
      · subst_vars
        simp
      · simp only [List.mem_cons, ih]
        tauto

theorem risingFrom_insertNat (a : Nat) (l : List Nat) (lo : Nat) (ha : lo ≤ a) (h : risingFrom lo l = true) :
    risingFrom lo (insertNat a l) = true := by
  induction l generalizing lo with
  | nil => simpa [insertNat, risingFrom] using ha
  | cons k rest ih =>
    simp only [risingFrom, Bool.and_eq_true, decide_eq_true_eq] at h
    simp only [insertNat]
    split
    · simp only [risingFrom, Bool.and_eq_true, decide_eq_true_eq]
      exact ⟨ha, by omega, h.2⟩
    · split
      · simp only [risingFrom, Bool.and_eq_true, decide_eq_true_eq]
        exact h
      · simp only [risingFrom, Bool.and_eq_true, decide_eq_true_eq]
        exact ⟨h.1, ih (k + 1) (by omega) h.2⟩

theorem rising_insertNat (a : Nat) (l : List Nat) (h : rising l = true) : rising (insertNat a l) = true :=
  risingFrom_insertNat a l 0 (Nat.zero_le _) h

theorem risingFrom_range' (lo i n : Nat) (h : lo ≤ i) : risingFrom lo (List.range' i n) = true := by
  induction n generalizing lo i with
  | zero => rfl
  | succ n ih =>
    simp only [List.range'_succ, risingFrom, Bool.and_eq_true, decide_eq_true_eq]
    exact ⟨h, ih (i + 1) (i + 1) (by omega)⟩

theorem rising_range (n : Nat) : rising (List.range n) = true := by
  rw [List.range_eq_range']
  exact risingFrom_range' 0 0 n (by omega)

/-- Distinct rising keys: the entry found is the one listed. -/
theorem Assoc.get?_of_mem {α : Type} (m : Assoc α) (lo : Nat) (hs : Assoc.sortedFrom lo m = true) (k : Nat) (v : α)
    (h : (k, v) ∈ m) : lo ≤ k ∧ Assoc.get? m k = some v := by
  induction m generalizing lo with
  | nil => simp at h
  | cons e rest ih =>
    obtain ⟨k', w⟩ := e
    simp only [Assoc.sortedFrom, Bool.and_eq_true, decide_eq_true_eq] at hs
    rcases List.mem_cons.mp h with heq | hmem
    · obtain ⟨rfl, rfl⟩ := Prod.mk.inj heq
      exact ⟨hs.1, by simp [Assoc.get?]⟩
    · obtain ⟨hle, hget⟩ := ih (k' + 1) hs.2 hmem
      refine ⟨by omega, ?_⟩
      rw [Assoc.get?, if_neg (by omega), hget]

/-! ### The savedata buffer -/

theorem SaveBuffer.wf_write (b : SaveBuffer) (i : Nat) (v : Byte) (h : b.wf = true) : (b.write i v).wf = true := by
  simp only [SaveBuffer.wf, Bool.and_eq_true, List.all_eq_true] at h
  obtain ⟨⟨h1, h2⟩, h3⟩ := h
  by_cases hc : (b.erased.contains (i / 0x1000) && v = 0xFF#8) = true
  · simp only [SaveBuffer.write, hc, if_true, SaveBuffer.wf, Bool.and_eq_true, List.all_eq_true]
    exact ⟨⟨Assoc.sorted_erase _ _ h1, h2⟩, fun e he => h3 e (List.mem_of_mem_filter he)⟩
  · simp only [SaveBuffer.write, hc, SaveBuffer.wf, Bool.and_eq_true, List.all_eq_true]
    refine ⟨⟨Assoc.sorted_set _ _ _ h1, h2⟩, fun e he => ?_⟩
    rcases Assoc.mem_set _ _ _ e he with rfl | he
    · simpa [imp_iff_not_or] using hc
    · exact h3 e he

theorem SaveBuffer.read_write (b : SaveBuffer) (i j : Nat) (v : Byte) :
    (b.write i v).read j = if i = j then v else b.read j := by
  by_cases hc : (b.erased.contains (i / 0x1000) && v = 0xFF#8) = true
  · have hw : b.write i v = { b with cells := Assoc.erase b.cells i } := if_pos hc
    simp only [Bool.and_eq_true, decide_eq_true_eq] at hc
    simp only [hw, SaveBuffer.read, Assoc.get?_erase]
    by_cases hij : i = j
    · subst hij
      simp only [if_true]
      rw [hc.2, if_pos hc.1]
    · simp only [hij, if_false]
  · have hw : b.write i v = { b with cells := Assoc.set b.cells i v } := if_neg hc
    simp only [hw, SaveBuffer.read, Assoc.get?_set]
    by_cases hij : i = j <;> simp [hij]

theorem SaveBuffer.wf_eraseSector (b : SaveBuffer) (n : Nat) (h : b.wf = true) : (b.eraseSector n).wf = true := by
  simp only [SaveBuffer.wf, SaveBuffer.eraseSector, Bool.and_eq_true, List.all_eq_true] at h ⊢
  obtain ⟨⟨h1, h2⟩, h3⟩ := h
  refine ⟨⟨Assoc.sorted_filter _ _ h1, rising_insertNat n _ h2⟩, fun e he => ?_⟩
  rw [List.mem_filter] at he
  have h4 := h3 e he.1
  have h5 : e.1 / 0x1000 ≠ n := by simpa using he.2
  have h6 : (insertNat n b.erased).contains (e.1 / 0x1000) = b.erased.contains (e.1 / 0x1000) := by
    rw [Bool.eq_iff_iff]
    simp only [List.contains_iff_mem, mem_insertNat]
    tauto
  rw [h6]
  exact h4

theorem SaveBuffer.wf_eraseAll (size : Nat) : (SaveBuffer.eraseAll size).wf = true := by
  simp [SaveBuffer.wf, SaveBuffer.eraseAll, Assoc.sorted, Assoc.sortedFrom, rising_range]

theorem SaveBuffer.wf_foldl_write (cells : List Host.Cell) (b : SaveBuffer) (h : b.wf = true) :
    (cells.foldl (fun b e => b.write e.1 e.2) b).wf = true :=
  foldl_keeps _ (fun b => SaveBuffer.wf b = true) _ (fun b e _ hb => SaveBuffer.wf_write b e.1 e.2 hb) b h

/-! ### The save image -/

theorem imageCells_sorted (image : List Byte) {lo i : Nat} (h : lo ≤ i) : Assoc.sortedFrom lo (imageCells i image) = true := by
  induction image generalizing lo i with
  | nil => rfl
  | cons b bs ih => simp [imageCells, Assoc.sortedFrom, h, ih (Nat.le_refl (i + 1))]

/-- A supplied byte of the image stands at its index. -/
theorem get?_imageCells (image : List Byte) (i j : Nat) : Assoc.get? (imageCells i image) (i + j) = image[j]? := by
  induction image generalizing i j with
  | nil => rfl
  | cons b bs ih =>
    cases j with
    | zero => simp [imageCells, Assoc.get?]
    | succ j =>
      have h := ih (i + 1) j
      rw [Nat.add_right_comm] at h
      simpa [imageCells, Assoc.get?, ← Nat.add_assoc, show i ≠ i + j + 1 by omega] using h

theorem Save.powerOn_wf (image : List Byte) : (Save.powerOn image).buffer.wf = true := by
  simp [Save.powerOn, SaveBuffer.wf, Assoc.sorted, imageCells_sorted, rising, risingFrom]

theorem Save.read_powerOn (image : List Byte) {j : Nat} {b : Byte} (h : image[j]? = some b) :
    (Save.powerOn image).buffer.read j = b := by
  have := get?_imageCells image 0 j
  simp_all [Save.powerOn, SaveBuffer.read]

end Sys2Proof.Machine
end

