-- ==== Sys2Proof/Laws/State.lean ====
section
/-! SUPPORT. What each update of the state leaves alone, field by field, and the fields it sets: all by unfolding, so that no
later proof unfolds a record update. -/

namespace Sys2Proof.Machine

/-! ### setBankReg -/

@[simp] theorem State.setBankReg_params (s : State) (m : Mode) (i : RegNum) (v : Word) : (s.setBankReg m i v).params = s.params := rfl
@[simp] theorem State.setBankReg_pc (s : State) (m : Mode) (i : RegNum) (v : Word) : (s.setBankReg m i v).pc = s.pc := rfl
@[simp] theorem State.setBankReg_cpsr (s : State) (m : Mode) (i : RegNum) (v : Word) : (s.setBankReg m i v).cpsr = s.cpsr := rfl
@[simp] theorem State.setBankReg_spsr (s : State) (m : Mode) (i : RegNum) (v : Word) : (s.setBankReg m i v).spsr = s.spsr := rfl
@[simp] theorem State.setBankReg_cycles (s : State) (m : Mode) (i : RegNum) (v : Word) : (s.setBankReg m i v).cycles = s.cycles := rfl
@[simp] theorem State.setBankReg_afterUserLdm (s : State) (m : Mode) (i : RegNum) (v : Word) : (s.setBankReg m i v).afterUserLdm = s.afterUserLdm := rfl
@[simp] theorem State.setBankReg_stale (s : State) (m : Mode) (i : RegNum) (v : Word) : (s.setBankReg m i v).stale = s.stale := rfl
@[simp] theorem State.setBankReg_irqLine (s : State) (m : Mode) (i : RegNum) (v : Word) : (s.setBankReg m i v).irqLine = s.irqLine := rfl
@[simp] theorem State.setBankReg_dma3Count (s : State) (m : Mode) (i : RegNum) (v : Word) : (s.setBankReg m i v).dma3Count = s.dma3Count := rfl
@[simp] theorem State.setBankReg_dma3Enable (s : State) (m : Mode) (i : RegNum) (v : Word) : (s.setBankReg m i v).dma3Enable = s.dma3Enable := rfl
@[simp] theorem State.setBankReg_mem (s : State) (m : Mode) (i : RegNum) (v : Word) : (s.setBankReg m i v).mem = s.mem := rfl
@[simp] theorem State.setBankReg_ioLog (s : State) (m : Mode) (i : RegNum) (v : Word) : (s.setBankReg m i v).ioLog = s.ioLog := rfl
@[simp] theorem State.setBankReg_swiCalls (s : State) (m : Mode) (i : RegNum) (v : Word) : (s.setBankReg m i v).swiCalls = s.swiCalls := rfl
@[simp] theorem State.setBankReg_save (s : State) (m : Mode) (i : RegNum) (v : Word) : (s.setBankReg m i v).save = s.save := rfl
@[simp] theorem State.setBankReg_proxy (s : State) (m : Mode) (i : RegNum) (v : Word) : (s.setBankReg m i v).proxy = s.proxy := rfl
@[simp] theorem State.setBankReg_draws (s : State) (m : Mode) (i : RegNum) (v : Word) : (s.setBankReg m i v).draws = s.draws := rfl
@[simp] theorem State.setBankReg_schedule (s : State) (m : Mode) (i : RegNum) (v : Word) : (s.setBankReg m i v).schedule = s.schedule := rfl
@[simp] theorem State.setBankReg_outputs (s : State) (m : Mode) (i : RegNum) (v : Word) : (s.setBankReg m i v).outputs = s.outputs := rfl

/-! ### setX -/

@[simp] theorem State.setX_params (s : State) (i : RegNum) (v : Word) : (s.setX i v).params = s.params := rfl
@[simp] theorem State.setX_pc (s : State) (i : RegNum) (v : Word) : (s.setX i v).pc = s.pc := rfl
@[simp] theorem State.setX_cpsr (s : State) (i : RegNum) (v : Word) : (s.setX i v).cpsr = s.cpsr := rfl
@[simp] theorem State.setX_spsr (s : State) (i : RegNum) (v : Word) : (s.setX i v).spsr = s.spsr := rfl
@[simp] theorem State.setX_cycles (s : State) (i : RegNum) (v : Word) : (s.setX i v).cycles = s.cycles := rfl
@[simp] theorem State.setX_afterUserLdm (s : State) (i : RegNum) (v : Word) : (s.setX i v).afterUserLdm = s.afterUserLdm := rfl
@[simp] theorem State.setX_stale (s : State) (i : RegNum) (v : Word) : (s.setX i v).stale = s.stale := rfl
@[simp] theorem State.setX_irqLine (s : State) (i : RegNum) (v : Word) : (s.setX i v).irqLine = s.irqLine := rfl
@[simp] theorem State.setX_dma3Count (s : State) (i : RegNum) (v : Word) : (s.setX i v).dma3Count = s.dma3Count := rfl
@[simp] theorem State.setX_dma3Enable (s : State) (i : RegNum) (v : Word) : (s.setX i v).dma3Enable = s.dma3Enable := rfl
@[simp] theorem State.setX_mem (s : State) (i : RegNum) (v : Word) : (s.setX i v).mem = s.mem := rfl
@[simp] theorem State.setX_ioLog (s : State) (i : RegNum) (v : Word) : (s.setX i v).ioLog = s.ioLog := rfl
@[simp] theorem State.setX_swiCalls (s : State) (i : RegNum) (v : Word) : (s.setX i v).swiCalls = s.swiCalls := rfl
@[simp] theorem State.setX_save (s : State) (i : RegNum) (v : Word) : (s.setX i v).save = s.save := rfl
@[simp] theorem State.setX_proxy (s : State) (i : RegNum) (v : Word) : (s.setX i v).proxy = s.proxy := rfl
@[simp] theorem State.setX_draws (s : State) (i : RegNum) (v : Word) : (s.setX i v).draws = s.draws := rfl
@[simp] theorem State.setX_schedule (s : State) (i : RegNum) (v : Word) : (s.setX i v).schedule = s.schedule := rfl
@[simp] theorem State.setX_outputs (s : State) (i : RegNum) (v : Word) : (s.setX i v).outputs = s.outputs := rfl

/-! ### setLo -/

@[simp] theorem State.setLo_params (s : State) (r : LowReg) (v : Word) : (s.setLo r v).params = s.params := rfl
@[simp] theorem State.setLo_pc (s : State) (r : LowReg) (v : Word) : (s.setLo r v).pc = s.pc := rfl
@[simp] theorem State.setLo_cpsr (s : State) (r : LowReg) (v : Word) : (s.setLo r v).cpsr = s.cpsr := rfl
@[simp] theorem State.setLo_spsr (s : State) (r : LowReg) (v : Word) : (s.setLo r v).spsr = s.spsr := rfl
@[simp] theorem State.setLo_cycles (s : State) (r : LowReg) (v : Word) : (s.setLo r v).cycles = s.cycles := rfl
@[simp] theorem State.setLo_afterUserLdm (s : State) (r : LowReg) (v : Word) : (s.setLo r v).afterUserLdm = s.afterUserLdm := rfl
@[simp] theorem State.setLo_stale (s : State) (r : LowReg) (v : Word) : (s.setLo r v).stale = s.stale := rfl
@[simp] theorem State.setLo_irqLine (s : State) (r : LowReg) (v : Word) : (s.setLo r v).irqLine = s.irqLine := rfl
@[simp] theorem State.setLo_dma3Count (s : State) (r : LowReg) (v : Word) : (s.setLo r v).dma3Count = s.dma3Count := rfl
@[simp] theorem State.setLo_dma3Enable (s : State) (r : LowReg) (v : Word) : (s.setLo r v).dma3Enable = s.dma3Enable := rfl
@[simp] theorem State.setLo_mem (s : State) (r : LowReg) (v : Word) : (s.setLo r v).mem = s.mem := rfl
@[simp] theorem State.setLo_ioLog (s : State) (r : LowReg) (v : Word) : (s.setLo r v).ioLog = s.ioLog := rfl
@[simp] theorem State.setLo_swiCalls (s : State) (r : LowReg) (v : Word) : (s.setLo r v).swiCalls = s.swiCalls := rfl
@[simp] theorem State.setLo_save (s : State) (r : LowReg) (v : Word) : (s.setLo r v).save = s.save := rfl
@[simp] theorem State.setLo_proxy (s : State) (r : LowReg) (v : Word) : (s.setLo r v).proxy = s.proxy := rfl
@[simp] theorem State.setLo_draws (s : State) (r : LowReg) (v : Word) : (s.setLo r v).draws = s.draws := rfl
@[simp] theorem State.setLo_schedule (s : State) (r : LowReg) (v : Word) : (s.setLo r v).schedule = s.schedule := rfl
@[simp] theorem State.setLo_outputs (s : State) (r : LowReg) (v : Word) : (s.setLo r v).outputs = s.outputs := rfl

/-! ### advance -/

@[simp] theorem State.advance_params (s : State) (w : Word) : (s.advance w).params = s.params := rfl
@[simp] theorem State.advance_regs (s : State) (w : Word) : (s.advance w).regs = s.regs := rfl
@[simp] theorem State.advance_cpsr (s : State) (w : Word) : (s.advance w).cpsr = s.cpsr := rfl
@[simp] theorem State.advance_spsr (s : State) (w : Word) : (s.advance w).spsr = s.spsr := rfl
@[simp] theorem State.advance_cycles (s : State) (w : Word) : (s.advance w).cycles = s.cycles := rfl
@[simp] theorem State.advance_afterUserLdm (s : State) (w : Word) : (s.advance w).afterUserLdm = s.afterUserLdm := rfl
@[simp] theorem State.advance_stale (s : State) (w : Word) : (s.advance w).stale = s.stale := rfl
@[simp] theorem State.advance_irqLine (s : State) (w : Word) : (s.advance w).irqLine = s.irqLine := rfl
@[simp] theorem State.advance_dma3Count (s : State) (w : Word) : (s.advance w).dma3Count = s.dma3Count := rfl
@[simp] theorem State.advance_dma3Enable (s : State) (w : Word) : (s.advance w).dma3Enable = s.dma3Enable := rfl
@[simp] theorem State.advance_mem (s : State) (w : Word) : (s.advance w).mem = s.mem := rfl
@[simp] theorem State.advance_ioLog (s : State) (w : Word) : (s.advance w).ioLog = s.ioLog := rfl
@[simp] theorem State.advance_swiCalls (s : State) (w : Word) : (s.advance w).swiCalls = s.swiCalls := rfl
@[simp] theorem State.advance_save (s : State) (w : Word) : (s.advance w).save = s.save := rfl
@[simp] theorem State.advance_proxy (s : State) (w : Word) : (s.advance w).proxy = s.proxy := rfl
@[simp] theorem State.advance_draws (s : State) (w : Word) : (s.advance w).draws = s.draws := rfl
@[simp] theorem State.advance_schedule (s : State) (w : Word) : (s.advance w).schedule = s.schedule := rfl
@[simp] theorem State.advance_outputs (s : State) (w : Word) : (s.advance w).outputs = s.outputs := rfl

/-! ### jump -/

@[simp] theorem State.jump_params (s : State) (v : Word) : (s.jump v).params = s.params := rfl
@[simp] theorem State.jump_regs (s : State) (v : Word) : (s.jump v).regs = s.regs := rfl
@[simp] theorem State.jump_cpsr (s : State) (v : Word) : (s.jump v).cpsr = s.cpsr := rfl
@[simp] theorem State.jump_spsr (s : State) (v : Word) : (s.jump v).spsr = s.spsr := rfl
@[simp] theorem State.jump_cycles (s : State) (v : Word) : (s.jump v).cycles = s.cycles := rfl
@[simp] theorem State.jump_afterUserLdm (s : State) (v : Word) : (s.jump v).afterUserLdm = s.afterUserLdm := rfl
@[simp] theorem State.jump_irqLine (s : State) (v : Word) : (s.jump v).irqLine = s.irqLine := rfl
@[simp] theorem State.jump_dma3Count (s : State) (v : Word) : (s.jump v).dma3Count = s.dma3Count := rfl
@[simp] theorem State.jump_dma3Enable (s : State) (v : Word) : (s.jump v).dma3Enable = s.dma3Enable := rfl
@[simp] theorem State.jump_mem (s : State) (v : Word) : (s.jump v).mem = s.mem := rfl
@[simp] theorem State.jump_ioLog (s : State) (v : Word) : (s.jump v).ioLog = s.ioLog := rfl
@[simp] theorem State.jump_swiCalls (s : State) (v : Word) : (s.jump v).swiCalls = s.swiCalls := rfl
@[simp] theorem State.jump_save (s : State) (v : Word) : (s.jump v).save = s.save := rfl
@[simp] theorem State.jump_proxy (s : State) (v : Word) : (s.jump v).proxy = s.proxy := rfl
@[simp] theorem State.jump_draws (s : State) (v : Word) : (s.jump v).draws = s.draws := rfl
@[simp] theorem State.jump_schedule (s : State) (v : Word) : (s.jump v).schedule = s.schedule := rfl
@[simp] theorem State.jump_outputs (s : State) (v : Word) : (s.jump v).outputs = s.outputs := rfl

/-! ### branchThumb -/

@[simp] theorem branchThumb_params (v : Word) (s : State) : (branchThumb v s).params = s.params := rfl
@[simp] theorem branchThumb_regs (v : Word) (s : State) : (branchThumb v s).regs = s.regs := rfl
@[simp] theorem branchThumb_cpsr (v : Word) (s : State) : (branchThumb v s).cpsr = s.cpsr := rfl
@[simp] theorem branchThumb_spsr (v : Word) (s : State) : (branchThumb v s).spsr = s.spsr := rfl
@[simp] theorem branchThumb_cycles (v : Word) (s : State) : (branchThumb v s).cycles = s.cycles := rfl
@[simp] theorem branchThumb_afterUserLdm (v : Word) (s : State) : (branchThumb v s).afterUserLdm = s.afterUserLdm := rfl
@[simp] theorem branchThumb_irqLine (v : Word) (s : State) : (branchThumb v s).irqLine = s.irqLine := rfl
@[simp] theorem branchThumb_dma3Count (v : Word) (s : State) : (branchThumb v s).dma3Count = s.dma3Count := rfl
@[simp] theorem branchThumb_dma3Enable (v : Word) (s : State) : (branchThumb v s).dma3Enable = s.dma3Enable := rfl
@[simp] theorem branchThumb_mem (v : Word) (s : State) : (branchThumb v s).mem = s.mem := rfl
@[simp] theorem branchThumb_ioLog (v : Word) (s : State) : (branchThumb v s).ioLog = s.ioLog := rfl
@[simp] theorem branchThumb_swiCalls (v : Word) (s : State) : (branchThumb v s).swiCalls = s.swiCalls := rfl
@[simp] theorem branchThumb_save (v : Word) (s : State) : (branchThumb v s).save = s.save := rfl
@[simp] theorem branchThumb_proxy (v : Word) (s : State) : (branchThumb v s).proxy = s.proxy := rfl
@[simp] theorem branchThumb_draws (v : Word) (s : State) : (branchThumb v s).draws = s.draws := rfl
@[simp] theorem branchThumb_schedule (v : Word) (s : State) : (branchThumb v s).schedule = s.schedule := rfl
@[simp] theorem branchThumb_outputs (v : Word) (s : State) : (branchThumb v s).outputs = s.outputs := rfl

/-! ### begun -/

@[simp] theorem State.begun_params (s : State) : (s.begun).params = s.params := rfl
@[simp] theorem State.begun_regs (s : State) : (s.begun).regs = s.regs := rfl
@[simp] theorem State.begun_pc (s : State) : (s.begun).pc = s.pc := rfl
@[simp] theorem State.begun_cpsr (s : State) : (s.begun).cpsr = s.cpsr := rfl
@[simp] theorem State.begun_spsr (s : State) : (s.begun).spsr = s.spsr := rfl
@[simp] theorem State.begun_cycles (s : State) : (s.begun).cycles = s.cycles := rfl
@[simp] theorem State.begun_stale (s : State) : (s.begun).stale = s.stale := rfl
@[simp] theorem State.begun_irqLine (s : State) : (s.begun).irqLine = s.irqLine := rfl
@[simp] theorem State.begun_dma3Count (s : State) : (s.begun).dma3Count = s.dma3Count := rfl
@[simp] theorem State.begun_dma3Enable (s : State) : (s.begun).dma3Enable = s.dma3Enable := rfl
@[simp] theorem State.begun_mem (s : State) : (s.begun).mem = s.mem := rfl
@[simp] theorem State.begun_ioLog (s : State) : (s.begun).ioLog = s.ioLog := rfl
@[simp] theorem State.begun_swiCalls (s : State) : (s.begun).swiCalls = s.swiCalls := rfl
@[simp] theorem State.begun_save (s : State) : (s.begun).save = s.save := rfl
@[simp] theorem State.begun_proxy (s : State) : (s.begun).proxy = s.proxy := rfl
@[simp] theorem State.begun_draws (s : State) : (s.begun).draws = s.draws := rfl
@[simp] theorem State.begun_schedule (s : State) : (s.begun).schedule = s.schedule := rfl
@[simp] theorem State.begun_outputs (s : State) : (s.begun).outputs = s.outputs := rfl

/-! ### leave -/

@[simp] theorem State.leave_params (s u : State) : (s.leave u).params = s.params := rfl
@[simp] theorem State.leave_regs (s u : State) : (s.leave u).regs = s.regs := rfl
@[simp] theorem State.leave_pc (s u : State) : (s.leave u).pc = s.pc := rfl
@[simp] theorem State.leave_cpsr (s u : State) : (s.leave u).cpsr = s.cpsr := rfl
@[simp] theorem State.leave_spsr (s u : State) : (s.leave u).spsr = s.spsr := rfl
@[simp] theorem State.leave_cycles (s u : State) : (s.leave u).cycles = s.cycles := rfl
@[simp] theorem State.leave_afterUserLdm (s u : State) : (s.leave u).afterUserLdm = s.afterUserLdm := rfl
@[simp] theorem State.leave_stale (s u : State) : (s.leave u).stale = s.stale := rfl
@[simp] theorem State.leave_irqLine (s u : State) : (s.leave u).irqLine = s.irqLine := rfl
@[simp] theorem State.leave_dma3Count (s u : State) : (s.leave u).dma3Count = s.dma3Count := rfl
@[simp] theorem State.leave_dma3Enable (s u : State) : (s.leave u).dma3Enable = s.dma3Enable := rfl
@[simp] theorem State.leave_schedule (s u : State) : (s.leave u).schedule = s.schedule := rfl
@[simp] theorem State.leave_outputs (s u : State) : (s.leave u).outputs = s.outputs := rfl

/-! ### takeException -/

@[simp] theorem takeException_params (e : Exc) (lr : Word) (s : State) : (takeException e lr s).params = s.params := rfl
@[simp] theorem takeException_cycles (e : Exc) (lr : Word) (s : State) : (takeException e lr s).cycles = s.cycles := rfl
@[simp] theorem takeException_afterUserLdm (e : Exc) (lr : Word) (s : State) : (takeException e lr s).afterUserLdm = s.afterUserLdm := rfl
@[simp] theorem takeException_irqLine (e : Exc) (lr : Word) (s : State) : (takeException e lr s).irqLine = s.irqLine := rfl
@[simp] theorem takeException_dma3Count (e : Exc) (lr : Word) (s : State) : (takeException e lr s).dma3Count = s.dma3Count := rfl
@[simp] theorem takeException_dma3Enable (e : Exc) (lr : Word) (s : State) : (takeException e lr s).dma3Enable = s.dma3Enable := rfl
@[simp] theorem takeException_mem (e : Exc) (lr : Word) (s : State) : (takeException e lr s).mem = s.mem := rfl
@[simp] theorem takeException_ioLog (e : Exc) (lr : Word) (s : State) : (takeException e lr s).ioLog = s.ioLog := rfl
@[simp] theorem takeException_swiCalls (e : Exc) (lr : Word) (s : State) : (takeException e lr s).swiCalls = s.swiCalls := rfl
@[simp] theorem takeException_save (e : Exc) (lr : Word) (s : State) : (takeException e lr s).save = s.save := rfl
@[simp] theorem takeException_proxy (e : Exc) (lr : Word) (s : State) : (takeException e lr s).proxy = s.proxy := rfl
@[simp] theorem takeException_draws (e : Exc) (lr : Word) (s : State) : (takeException e lr s).draws = s.draws := rfl
@[simp] theorem takeException_schedule (e : Exc) (lr : Word) (s : State) : (takeException e lr s).schedule = s.schedule := rfl
@[simp] theorem takeException_outputs (e : Exc) (lr : Word) (s : State) : (takeException e lr s).outputs = s.outputs := rfl

/-! ### emit -/

@[simp] theorem State.emit_params (s : State) (o : HostOutput) : (s.emit o).params = s.params := rfl
@[simp] theorem State.emit_regs (s : State) (o : HostOutput) : (s.emit o).regs = s.regs := rfl
@[simp] theorem State.emit_pc (s : State) (o : HostOutput) : (s.emit o).pc = s.pc := rfl
@[simp] theorem State.emit_cpsr (s : State) (o : HostOutput) : (s.emit o).cpsr = s.cpsr := rfl
@[simp] theorem State.emit_spsr (s : State) (o : HostOutput) : (s.emit o).spsr = s.spsr := rfl
@[simp] theorem State.emit_cycles (s : State) (o : HostOutput) : (s.emit o).cycles = s.cycles := rfl
@[simp] theorem State.emit_afterUserLdm (s : State) (o : HostOutput) : (s.emit o).afterUserLdm = s.afterUserLdm := rfl
@[simp] theorem State.emit_stale (s : State) (o : HostOutput) : (s.emit o).stale = s.stale := rfl
@[simp] theorem State.emit_irqLine (s : State) (o : HostOutput) : (s.emit o).irqLine = s.irqLine := rfl
@[simp] theorem State.emit_dma3Count (s : State) (o : HostOutput) : (s.emit o).dma3Count = s.dma3Count := rfl
@[simp] theorem State.emit_dma3Enable (s : State) (o : HostOutput) : (s.emit o).dma3Enable = s.dma3Enable := rfl
@[simp] theorem State.emit_mem (s : State) (o : HostOutput) : (s.emit o).mem = s.mem := rfl
@[simp] theorem State.emit_ioLog (s : State) (o : HostOutput) : (s.emit o).ioLog = s.ioLog := rfl
@[simp] theorem State.emit_swiCalls (s : State) (o : HostOutput) : (s.emit o).swiCalls = s.swiCalls := rfl
@[simp] theorem State.emit_save (s : State) (o : HostOutput) : (s.emit o).save = s.save := rfl
@[simp] theorem State.emit_proxy (s : State) (o : HostOutput) : (s.emit o).proxy = s.proxy := rfl
@[simp] theorem State.emit_draws (s : State) (o : HostOutput) : (s.emit o).draws = s.draws := rfl
@[simp] theorem State.emit_schedule (s : State) (o : HostOutput) : (s.emit o).schedule = s.schedule := rfl

/-! ### enterInterrupt -/

@[simp] theorem enterInterrupt_params (e : Exc) (s : State) : (enterInterrupt e s).params = s.params := rfl
@[simp] theorem enterInterrupt_cycles (e : Exc) (s : State) : (enterInterrupt e s).cycles = s.cycles := rfl
@[simp] theorem enterInterrupt_afterUserLdm (e : Exc) (s : State) : (enterInterrupt e s).afterUserLdm = s.afterUserLdm := rfl
@[simp] theorem enterInterrupt_irqLine (e : Exc) (s : State) : (enterInterrupt e s).irqLine = s.irqLine := rfl
@[simp] theorem enterInterrupt_dma3Count (e : Exc) (s : State) : (enterInterrupt e s).dma3Count = s.dma3Count := rfl
@[simp] theorem enterInterrupt_dma3Enable (e : Exc) (s : State) : (enterInterrupt e s).dma3Enable = s.dma3Enable := rfl
@[simp] theorem enterInterrupt_mem (e : Exc) (s : State) : (enterInterrupt e s).mem = s.mem := rfl
@[simp] theorem enterInterrupt_ioLog (e : Exc) (s : State) : (enterInterrupt e s).ioLog = s.ioLog := rfl
@[simp] theorem enterInterrupt_swiCalls (e : Exc) (s : State) : (enterInterrupt e s).swiCalls = s.swiCalls := rfl
@[simp] theorem enterInterrupt_save (e : Exc) (s : State) : (enterInterrupt e s).save = s.save := rfl
@[simp] theorem enterInterrupt_proxy (e : Exc) (s : State) : (enterInterrupt e s).proxy = s.proxy := rfl
@[simp] theorem enterInterrupt_draws (e : Exc) (s : State) : (enterInterrupt e s).draws = s.draws := rfl
@[simp] theorem enterInterrupt_schedule (e : Exc) (s : State) : (enterInterrupt e s).schedule = s.schedule := rfl
@[simp] theorem enterInterrupt_outputs (e : Exc) (s : State) : (enterInterrupt e s).outputs = s.outputs := rfl

/-! ### The fields an operation sets -/

@[simp] theorem State.advance_pc (s : State) (w : Word) : (s.advance w).pc = s.pc + w := rfl
@[simp] theorem State.jump_pc (s : State) (v : Word) : (s.jump v).pc = v := rfl
@[simp] theorem State.jump_stale (s : State) (v : Word) : (s.jump v).stale = [] := rfl
@[simp] theorem branchThumb_stale (v : Word) (s : State) : (branchThumb v s).stale = [] := rfl
@[simp] theorem takeException_stale (e : Exc) (lr : Word) (s : State) : (takeException e lr s).stale = [] := rfl
@[simp] theorem State.begun_afterUserLdm (s : State) : s.begun.afterUserLdm = false := rfl
@[simp] theorem State.leave_mem (s u : State) : (s.leave u).mem = u.mem := rfl
@[simp] theorem State.leave_ioLog (s u : State) : (s.leave u).ioLog = u.ioLog := rfl
@[simp] theorem State.leave_swiCalls (s u : State) : (s.leave u).swiCalls = u.swiCalls := rfl
@[simp] theorem State.leave_save (s u : State) : (s.leave u).save = u.save := rfl
@[simp] theorem State.leave_proxy (s u : State) : (s.leave u).proxy = u.proxy := rfl
@[simp] theorem State.leave_draws (s u : State) : (s.leave u).draws = u.draws := rfl
@[simp] theorem branchThumb_pc (v : Word) (s : State) : (branchThumb v s).pc = v &&& 0xFFFFFFFE#32 := rfl
@[simp] theorem takeException_pc (e : Exc) (lr : Word) (s : State) : (takeException e lr s).pc = e.vector := rfl
@[simp] theorem takeException_spsr (e : Exc) (lr : Word) (s : State) :
    (takeException e lr s).spsr = s.spsr.set e.mode s.cpsr.pack := rfl
@[simp] theorem takeException_cpsr (e : Exc) (lr : Word) (s : State) :
    (takeException e lr s).cpsr = { s.cpsr with m := e.mode, t := false, i := true, f := s.cpsr.f || e == .fiq } := rfl
@[simp] theorem takeException_regs (e : Exc) (lr : Word) (s : State) :
    (takeException e lr s).regs = s.regs.set (physIndex e.mode 14#4) lr := rfl
@[simp] theorem enterInterrupt_pc (e : Exc) (s : State) : (enterInterrupt e s).pc = e.vector := rfl
@[simp] theorem enterInterrupt_stale (e : Exc) (s : State) : (enterInterrupt e s).stale = [] := rfl
@[simp] theorem State.setBankReg_regs (s : State) (m : Mode) (i : RegNum) (v : Word) :
    (s.setBankReg m i v).regs = s.regs.set (physIndex m i) v := rfl
@[simp] theorem State.setX_regs (s : State) (i : RegNum) (v : Word) :
    (s.setX i v).regs = s.regs.set (physIndex s.cpsr.m i) v := rfl
@[simp] theorem State.emit_outputs (s : State) (o : HostOutput) : (s.emit o).outputs = s.outputs ++ [o] := rfl

/-! ### Reading registers through updates of other fields -/

@[simp] theorem State.advance_bankReg (s : State) (w : Word) (m : Mode) (i : RegNum) :
    (s.advance w).bankReg m i = s.bankReg m i := rfl
@[simp] theorem State.jump_bankReg (s : State) (v : Word) (m : Mode) (i : RegNum) :
    (s.jump v).bankReg m i = s.bankReg m i := rfl
@[simp] theorem State.begun_bankReg (s : State) (m : Mode) (i : RegNum) : s.begun.bankReg m i = s.bankReg m i := rfl
@[simp] theorem State.begun_x (s : State) (off : Word) (i : RegNum) : s.begun.x off i = s.x off i := rfl
@[simp] theorem branchThumb_bankReg (v : Word) (s : State) (m : Mode) (i : RegNum) :
    (branchThumb v s).bankReg m i = s.bankReg m i := rfl

/-- The place of a register in the file is below its size (R102). -/
theorem physPlace_lt (m : Mode) (i : RegNum) (h : i ≠ 15#4) : physPlace m i.toNat < 30 := by
  have hi : i.toNat < 15 := by
    have := i.isLt
    have hne : i.toNat ≠ 15 := fun hh => h (BitVec.eq_of_toNat_eq hh)
    omega
  cases m <;> simp only [physPlace] <;> (try split) <;> omega

/-- Two names of registers are the same physical register exactly where the number is the same and the two modes see the
same bank of it (R103). -/
theorem physIndex_inj (m m' : Mode) (i j : RegNum) (hi : i ≠ 15#4) (hj : j ≠ 15#4) :
    physIndex m i = physIndex m' j ↔ i = j ∧ m.banks i = m'.banks i ∧ (m.banks i = true → m = m') := by
  revert hi hj
  cases m <;> cases m' <;> revert i j <;> decide

/-- Reading a register after a write of one (R102, R103). -/
theorem State.bankReg_setBankReg (s : State) (m m' : Mode) (i j : RegNum) (v : Word) :
    (s.setBankReg m i v).bankReg m' j = if physIndex m i = physIndex m' j then v else s.bankReg m' j := by
  simp only [State.bankReg, State.setBankReg, Fin.getElem_fin, Vector.getElem_set, Fin.ext_iff]

@[simp] theorem State.bankReg_setBankReg_same (s : State) (m : Mode) (i : RegNum) (v : Word) :
    (s.setBankReg m i v).bankReg m i = v := by simp [State.bankReg_setBankReg]

end Sys2Proof.Machine
end

