-- ==== Sys2Proof/Laws/Shape.lean ====
section
/-! SUPPORT. The meanings by shape: `exec` of every instruction is the shared operation of its shape, so that a proof over all
instructions has one case per shape. -/

namespace Sys2Proof.Machine

/-- The operand of a Thumb ALU instruction as the meanings read it. -/
def TArg.read (s : State) : TArg → Word
  | .reg r => s.lo r
  | .imm v => v

/-- The shifter of a Thumb shift as the meanings apply it. -/
def tShiftOut (sh : ShiftKind) (n : TAmount) (src : LowReg) (s : State) : Shifted :=
  match n with
  | .imm k => shiftByImm sh k (s.lo src) s.cpsr.c
  | .reg r => shiftByReg sh (shiftAmount (s.lo r)) (s.lo src) s.cpsr.c

/-- The address of a Thumb transfer as the meanings compute it. -/
def TAddr.eval : TAddr → State → Word
  | .pc imm => fun s => pcAligned s + wordOffset imm
  | .sp imm => spAddress imm
  | .regs ro rb => regAddress ro rb
  | .off scale n rb => offAddress scale n rb

/-- The shared operation of a shape. -/
def runShape (sh : Shape) (s : State) : Result :=
  match sh with
  | .dataProc op c f rn rd o => dataProcessing op c f rn rd o s
  | .multiply c f rd acc rs rm => multiply c f rd acc rs rm s
  | .longMultiply sg acc c f rdHi rdLo rs rm => longMultiply sg acc c f rdHi rdLo rs rm s
  | .mrs c spsr rd => moveFromStatus c spsr rd s
  | .msr c spsr mask o => moveToStatus c spsr mask o s
  | .bx c rm => branchExchange c rm s
  | .branch c link off => branch c link off s
  | .swap load store c rn rd rm => swap load store c rn rd rm s
  | .transfer t c x rn rd o => if t.isMode2 then transfer2 t c x rn rd o s else transfer3 t c x rn rd o s
  | .block load bm c ub w rn list => if load then blockLoad bm c ub w rn list s else blockStore bm c ub w rn list s
  | .undefArm c w => undefinedArm c w s
  | .swi c comment => runArm c [] noChecks (softwareInterrupt (.swi32 comment) 4) s
  | .tShift sh n src rd => thumbCompute rd (fun s => thumbShift (tShiftOut sh n src s)) s
  | .tAlu op rd a b =>
    if op.isCompare then thumbCompare (fun s => dpCompute op (a.read s) (b.read s) s.cpsr.c s.cpsr.c) s
    else thumbCompute rd (fun s => dpCompute op (a.read s) (b.read s) s.cpsr.c s.cpsr.c) s
  | .tMul rs rd => thumbMultiply rs rd s
  | .tHi op m d =>
    match op with
    | .add => thumbHi m d (fun s => s.x 4 d + s.x 4 m) s
    | .cmp => thumbHiCompare m d s
    | _ => thumbHi m d (fun s => s.x 4 m) s
  | .tBx m => runThumb (fun s => exchange (s.x 4 m) s) s
  | .tAddress sp rd imm =>
    if sp then thumbAddress rd (fun s => s.x 4 13#4 + wordOffset imm) s
    else thumbAddress rd (fun s => pcAligned s + wordOffset imm) s
  | .tAdjustSp sub imm => execTAdjustSp sub imm s
  | .tTransfer t rd a => if t.isLoad then thumbLoad t rd a.eval s else thumbStore t rd a.eval s
  | .tPush r list => push r list s
  | .tPop r list => pop r list s
  | .tBlock load rb list => if load then thumbLoadMultiple rb list s else thumbStoreMultiple rb list s
  | .tBranchIf c off => thumbBranchIf c off s
  | .tUnd low => runThumb (undefined (0xDE00#32 ||| low.setWidth 32) 2) s
  | .tSwi value => runThumb (softwareInterrupt (.swi value) 2) s
  | .tB off => thumbBranch off s
  | .tBl suffix off => if suffix then blSuffix off s else blPrefix off s

set_option maxRecDepth 2000 in
/-- The meaning of an instruction is the shared operation of its shape. -/
theorem exec_eq_runShape (i : Instr) (s : State) : exec i s = runShape (shapeOf i) s := by
  cases i <;> rfl

end Sys2Proof.Machine
end

