-- ==== Sys2Proof/Laws/Ops.lean ====
section
/-! SUPPORT. What each shared operation can do, said once: the computations that may fault, the frame of an instruction, the
memory interface, the units. -/

namespace Sys2Proof.Machine

/-! ### Computations that may fault -/

theorem bind_eq_ok {ε α β : Type} {x : Except ε α} {f : α → Except ε β} {r : β} :
    (x >>= f) = .ok r ↔ ∃ a, x = .ok a ∧ f a = .ok r := by
  cases x <;> simp [bind, Except.bind]

theorem bind_eq_error {ε α β : Type} {x : Except ε α} {f : α → Except ε β} {e : ε} :
    (x >>= f) = .error e ↔ x = .error e ∨ ∃ a, x = .ok a ∧ f a = .error e := by
  cases x <;> simp [bind, Except.bind]

@[simp] theorem ok_bind {ε α β : Type} (a : α) (f : α → Except ε β) : ((Except.ok a : Except ε α) >>= f) = f a := rfl

@[simp] theorem error_bind {ε α β : Type} (e : ε) (f : α → Except ε β) :
    ((Except.error e : Except ε α) >>= f) = .error e := rfl

@[simp] theorem pure_eq_ok {ε α : Type} (a : α) : (pure a : Except ε α) = .ok a := rfl

@[simp] theorem settle_ok (s : State) : settle (.ok s) = .next s := rfl
@[simp] theorem settle_error (f : Fault) : settle (.error f) = .fault f := rfl
@[simp] theorem settleFrom_ok (s t : State) : settleFrom s (.ok t) = .next t := rfl
@[simp] theorem settleFrom_error (s : State) (f : Fault) : settleFrom s (.error f) = .fault (f.within s) := rfl

theorem settle_eq_next {x : Except Fault State} {t : State} : settle x = .next t ↔ x = .ok t := by
  cases x <;> simp [settle]

theorem settle_eq_fault {x : Except Fault State} {f : Fault} : settle x = .fault f ↔ x = .error f := by
  cases x <;> simp [settle]

theorem settleFrom_eq_next {s : State} {x : Except Fault State} {t : State} : settleFrom s x = .next t ↔ x = .ok t := by
  cases x <;> simp [settleFrom]

theorem settleFrom_eq_fault {s : State} {x : Except Fault State} {f : Fault} :
    settleFrom s x = .fault f ↔ ∃ g, x = .error g ∧ f = g.within s := by
  cases x <;> simp [settleFrom, eq_comm]

/-- What a fault of an instruction leaves (R900): everything but memory and the units as the instruction found it. -/
theorem Fault.within_eq {s : State} {f : Fault} {r : FaultReason} {t : State} (h : f.within s = .stop r t) :
    ∃ u, f = .stop r u ∧ t = s.leave u := by
  cases f
  cases h
  exact ⟨_, rfl, rfl⟩

@[simp] theorem State.leave_begun (s : State) : s.leave s.begun = s := rfl
@[simp] theorem State.leave_self (s : State) : s.leave s = s := rfl

@[simp] theorem stopAt_ok {α : Type} (s : State) (a : α) : stopAt s (.ok a) = .ok a := rfl
@[simp] theorem stopAt_error {α : Type} (s : State) (r : FaultReason) :
    stopAt s (.error r : Except FaultReason α) = .error (.stop r s) := rfl

theorem stopAt_eq_ok {α : Type} {s : State} {x : Except FaultReason α} {a : α} : stopAt s x = .ok a ↔ x = .ok a := by
  cases x <;> simp

theorem stopAt_eq_error {α : Type} {s : State} {x : Except FaultReason α} {f : Fault} :
    stopAt s x = .error f ↔ ∃ r, x = .error r ∧ f = .stop r s := by
  cases x <;> simp [eq_comm]

/-- A case with an alternative is passed where the alternatives are on or the case does not arise. -/
theorem checkAlt_ok {b : Bool} {k : UnpredictableCase} {s : State} (h : s.params.arm7tdmiAlt = true ∨ b = false) :
    checkAlt b k s = .ok () := by
  rcases h with h | h <;> simp [checkAlt, unpredictable, h]

theorem checkAlt_eq_ok {b : Bool} {k : UnpredictableCase} {s : State} {u : Unit} :
    checkAlt b k s = .ok u ↔ (s.params.arm7tdmiAlt = true ∨ b = false) := by
  cases b <;> cases h : s.params.arm7tdmiAlt <;> simp [checkAlt, unpredictable, h]

theorem checkAlt_eq_error {b : Bool} {k : UnpredictableCase} {s : State} {f : Fault} :
    checkAlt b k s = .error f ↔ (b = true ∧ s.params.arm7tdmiAlt = false ∧ f = .stop (.unpredictable k) s) := by
  cases b <;> cases h : s.params.arm7tdmiAlt <;> simp [checkAlt, unpredictable, h, eq_comm]

theorem checkNever_eq_ok {b : Bool} {k : UnpredictableCase} {s : State} {u : Unit} :
    checkNever b k s = .ok u ↔ b = false := by
  cases b <;> simp [checkNever]

theorem checkNever_eq_error {b : Bool} {k : UnpredictableCase} {s : State} {f : Fault} :
    checkNever b k s = .error f ↔ (b = true ∧ f = .stop (.unpredictable k) s) := by
  cases b <;> simp [checkNever, eq_comm]

@[simp] theorem checkNever_false (k : UnpredictableCase) (s : State) : checkNever false k s = .ok () := rfl

/-! ### The frame of an instruction -/

theorem condHolds_nv (p : Cpsr) : condHolds .nv p = false := rfl

/-- An ARM instruction that answers a next state: its condition failed and only the pc moved, or its body answers it. -/
theorem runArm_next {c : Cond} {regs : List RegNum} {checks : State → Except Fault Unit}
    {body : State → Except Fault State} {s t : State} (h : runArm c regs checks body s = .next t) :
    (condHolds c s.cpsr = false ∧ t = s.begun.advance 4) ∨
      (condHolds c s.cpsr = true ∧ checks s.begun = .ok () ∧ body s.begun = .ok t) := by
  simp only [runArm] at h
  split at h
  · cases h
  · split at h
    · obtain ⟨u, h1, h⟩ := bind_eq_ok.mp (settleFrom_eq_next.mp h)
      obtain ⟨u, -, h⟩ := bind_eq_ok.mp h
      exact .inr ⟨by assumption, h1, h⟩
    · refine .inl ⟨by simpa using ‹¬condHolds c s.cpsr = true›, ?_⟩
      cases h
      rfl

/-- An ARM instruction whose condition passes and that is no hazard runs its checks and its body. -/
theorem runArm_runs {c : Cond} {regs : List RegNum} {checks : State → Except Fault Unit}
    {body : State → Except Fault State} {s : State} (hc : condHolds c s.cpsr = true)
    (hh : s.params.arm7tdmiAlt = true ∨ (s.afterUserLdm && regs.any s.cpsr.m.banks) = false) :
    runArm c regs checks body s = settleFrom s (do
      checks s.begun
      body s.begun) := by
  have hnv : c ≠ .nv := by
    rintro rfl
    simp [condHolds_nv] at hc
  have hz : userLdmHazard regs s = .ok () := checkAlt_ok hh
  simp only [runArm, hnv, false_and, if_false, hc, if_true, hz, ok_bind]

/-- An ARM instruction whose condition fails only advances the pc (R410). -/
theorem runArm_fails {c : Cond} {regs : List RegNum} {checks : State → Except Fault Unit}
    {body : State → Except Fault State} {s : State} (hc : condHolds c s.cpsr = false)
    (hn : c ≠ .nv ∨ s.params.arm7tdmiAlt = true) : runArm c regs checks body s = .next (s.begun.advance 4) := by
  simp only [runArm, hc]
  rw [if_neg]
  · rfl
  · rintro ⟨h1, h2⟩
    rcases hn with hn | hn
    · exact hn h1
    · simp [hn] at h2

/-- A fault of an ARM instruction leaves everything but memory and the units as the instruction found it (R900). -/
theorem runArm_fault {c : Cond} {regs : List RegNum} {checks : State → Except Fault Unit}
    {body : State → Except Fault State} {s t : State} {r : FaultReason}
    (h : runArm c regs checks body s = .fault (.stop r t)) : ∃ u, t = s.leave u := by
  simp only [runArm] at h
  split at h
  · cases h
    exact ⟨s, rfl⟩
  · split at h
    · obtain ⟨g, -, hg⟩ := settleFrom_eq_fault.mp h
      obtain ⟨u, -, hu⟩ := Fault.within_eq hg.symm
      exact ⟨u, hu⟩
    · cases h

/-- A Thumb instruction runs its body. -/
theorem runThumb_runs (body : State → Except Fault State) (s : State) : runThumb body s = settleFrom s (body s.begun) := rfl

theorem runThumb_next {body : State → Except Fault State} {s t : State} :
    runThumb body s = .next t ↔ body s.begun = .ok t := settleFrom_eq_next

theorem runThumb_fault {body : State → Except Fault State} {s t : State} {r : FaultReason}
    (h : runThumb body s = .fault (.stop r t)) : ∃ u, t = s.leave u := by
  obtain ⟨g, -, hg⟩ := settleFrom_eq_fault.mp h
  obtain ⟨u, -, hu⟩ := Fault.within_eq hg.symm
  exact ⟨u, hu⟩

@[simp] theorem State.begun_spsrNow (s : State) : s.begun.spsrNow = s.spsrNow := rfl
@[simp] theorem State.begun_lo (s : State) (r : LowReg) : s.begun.lo r = s.lo r := rfl

/-- A low register is no R15. -/
theorem LowReg.num_ne (r : LowReg) : r.num ≠ 15#4 := by
  revert r
  decide

theorem State.lo_eq (s : State) (r : LowReg) : s.lo r = s.bankReg s.cpsr.m r.num := by
  simp [State.lo, State.x, LowReg.num_ne r]

theorem State.x_of_ne (s : State) (off : Word) (i : RegNum) (h : i ≠ 15#4) : s.x off i = s.bankReg s.cpsr.m i := by
  simp [State.x, h]

theorem State.x_pc (s : State) (off : Word) : s.x off 15#4 = s.pc + off := by simp [State.x]

/-! ### The part of the invariant that no register holds -/

/-- The clauses of `State.Inv` about memory and the units. -/
structure DataInv (s : State) : Prop where
  sizes : s.params.paletteSize % 2 = 0 ∧ s.params.vramSize % 2 = 0
  mem : Memory.wf s.mem = true
  save : Save.wf s.params s.save = true
  proxy : Proxy.wf s.params s.proxy = true

theorem State.Inv.data {s : State} (h : s.Inv) : DataInv s := ⟨h.sizes, h.mem, h.save, h.proxy⟩

theorem DataInv.congr {s t : State} (h : DataInv s) (h1 : t.params = s.params) (h2 : t.mem = s.mem) (h3 : t.save = s.save)
    (h4 : t.proxy = s.proxy) : DataInv t := by
  obtain ⟨a, b, c, d⟩ := h
  exact ⟨by rw [h1]; exact a, by rw [h2]; exact b, by rw [h1, h3]; exact c, by rw [h1, h4]; exact d⟩

/-! ### The units -/

/-- An access of the SRAM chip, the Flash sequencer or the EEPROM protocol keeps the savedata unit in form. -/
theorem Save.wf_iff {p : Params} {x : Save} : x.wf p = true ↔
    x.buffer.wf = true ∧ (p.saveKind = .flash128 ∨ x.flash.bank = 0) ∧
      (x.eeprom.addressBits = 0 ∨ x.eeprom.addressBits = 6 ∨ x.eeprom.addressBits = 14) := by
  simp [Save.wf, and_assoc, or_assoc]

theorem flashCommand_bank (f : Flash) (v : Byte) : (flashCommand f v).bank = f.bank := by
  simp only [flashCommand]
  repeat' split
  all_goals rfl

theorem flashIdleStore_bank (f : Flash) (o : Nat) (v : Byte) : (flashIdleStore f o v).bank = f.bank := by
  simp only [flashIdleStore]
  repeat' split
  all_goals first | rfl | exact flashCommand_bank _ _

theorem Save.wf_flashStore8 {p : Params} {x : Save} (o : Nat) (v : Byte) (h : x.wf p = true) :
    (flashStore8 p.saveKind x o v).wf p = true := by
  rw [Save.wf_iff] at h ⊢
  obtain ⟨h1, h2, h3⟩ := h
  simp only [flashStore8]
  split
  · exact ⟨SaveBuffer.wf_write _ _ _ h1, h2, h3⟩
  · refine ⟨h1, ?_, h3⟩
    rcases h2 with h2 | h2
    · exact .inl h2
    · by_cases hk : p.saveKind = .flash128
      · exact .inl hk
      · right
        simp [hk, h2]
  · split
    · exact ⟨SaveBuffer.wf_eraseAll _, h2, h3⟩
    · split
      · exact ⟨SaveBuffer.wf_eraseSector _ _ h1, h2, h3⟩
      · exact ⟨h1, h2, h3⟩
  · exact ⟨h1, by rw [flashIdleStore_bank]; exact h2, h3⟩

theorem SaveBuffer.wf_eepromSetBit (b : SaveBuffer) (j : Nat) (v : Bool) (h : b.wf = true) :
    (eepromSetBit b j v).wf = true := SaveBuffer.wf_write _ _ _ h

theorem eepromLatch_ok {count : Nat} {b : Bool} {n : Nat} (h : eepromLatch count b = .ok n) : n = 6 ∨ n = 14 := by
  simp only [eepromLatch] at h
  repeat' split at h
  all_goals first | (cases h; simp) | cases h

theorem Save.wf_eepromStore16 {p : Params} {count : Nat} {x y : Save} {b : Bool} (h : x.wf p = true)
    (hs : eepromStore16 p count x b = .ok y) : y.wf p = true := by
  rw [Save.wf_iff] at h ⊢
  obtain ⟨h1, h2, h3⟩ := h
  simp only [eepromStore16, pure_eq_ok] at hs
  split at hs
  · split at hs
    · obtain ⟨bits, hb, hs⟩ := bind_eq_ok.mp hs
      have hbits := eepromLatch_ok hb
      split at hs <;> cases hs <;> exact ⟨h1, h2, .inr hbits⟩
    · simp only [ok_bind] at hs
      split at hs <;> cases hs <;> exact ⟨h1, h2, h3⟩
  · split at hs
    · split at hs
      · obtain ⟨u, -, hs⟩ := bind_eq_ok.mp hs
        cases hs
        exact ⟨h1, h2, h3⟩
      · cases hs
        exact ⟨h1, h2, h3⟩
    · split at hs
      · cases hs
        exact ⟨h1, h2, h3⟩
      · cases hs
        exact ⟨SaveBuffer.wf_eepromSetBit _ _ _ h1, h2, h3⟩
  · split at hs
    · split at hs
      · obtain ⟨u, -, hs⟩ := bind_eq_ok.mp hs
        cases hs
        exact ⟨h1, h2, h3⟩
      · cases hs
        exact ⟨h1, h2, h3⟩
    · cases hs
      exact ⟨h1, h2, h3⟩
  · cases hs
    exact ⟨h1, h2, h3⟩
  · cases hs
    exact ⟨h1, h2, h3⟩

theorem Save.wf_eepromLoad16 {p : Params} {enable : Bool} {x : Save} (h : x.wf p = true) :
    (eepromLoad16 enable x).2.wf p = true := by
  rw [Save.wf_iff] at h ⊢
  obtain ⟨h1, h2, h3⟩ := h
  simp only [eepromLoad16]
  split
  · exact ⟨h1, h2, h3⟩
  · split <;> exact ⟨h1, h2, h3⟩

theorem Save.wf_saveLoad {p : Params} {enable : Bool} {x y : Save} {o : Nat} {w : Width} {v : Word} (h : x.wf p = true)
    (hs : saveLoad p enable x o w = .ok (v, y)) : y.wf p = true := by
  simp only [saveLoad, pure_eq_ok] at hs
  split at hs
  · obtain ⟨u, -, hs⟩ := bind_eq_ok.mp hs
    cases hs
    exact h
  · split at hs <;> cases hs
    exact h
  · split at hs <;> cases hs
    exact h
  · split at hs
    · have hy := congrArg (fun r => match r with | Except.ok (_, z) => z | Except.error _ => y) hs
      simp only at hy
      rw [← hy]
      exact Save.wf_eepromLoad16 h
    · cases hs

theorem Save.wf_saveStore {p : Params} {count : Nat} {x y : Save} {o : Nat} {w : Width} {v : Word} (h : x.wf p = true)
    (hs : saveStore p count x o w v = .ok y) : y.wf p = true := by
  simp only [saveStore] at hs
  split at hs
  · simp only [sramStore, pure_eq_ok] at hs
    obtain ⟨u, -, hs⟩ := bind_eq_ok.mp hs
    cases hs
    rw [Save.wf_iff] at h ⊢
    exact ⟨SaveBuffer.wf_foldl_write _ _ h.1, h.2.1, h.2.2⟩
  · split at hs <;> cases hs
    exact Save.wf_flashStore8 _ _ h
  · split at hs <;> cases hs
    exact Save.wf_flashStore8 _ _ h
  · split at hs
    · exact Save.wf_eepromStore16 h hs
    · cases hs

theorem Save.wf_resetUnit {p : Params} {x : Save} (h : x.wf p = true) : x.resetUnit.wf p = true := by
  rw [Save.wf_iff] at h ⊢
  exact ⟨h.1, .inr rfl, .inl rfl⟩

/-- The clauses of `Proxy.wf`. -/
structure ProxyOk (p : Params) (x : Proxy) : Prop where
  palette : Memory.wfZ p.paletteSize x.palette = true
  vram : Memory.wfZ p.vramSize x.vram = true
  oam : Memory.wfZ p.oamSize x.oam = true
  regsSorted : Assoc.sorted x.dirtyRegs = true
  regsVideo : x.dirtyRegs.all (fun e => p.videoRegs.contains e.1) = true
  dirtyVram : rising x.dirtyVram = true
  queue : x.queue.all (ScanRecord.wf p) = true
  posted : x.posted.all (WorkerMsg.wf p) = true
  skip : x.skipFrame = true → x.queue = []

theorem Proxy.wf_iff {p : Params} {x : Proxy} : x.wf p = true ↔ ProxyOk p x := by
  constructor
  · intro h
    simp only [Proxy.wf, Bool.and_eq_true, Bool.or_eq_true, Bool.not_eq_true', List.isEmpty_iff] at h
    obtain ⟨⟨⟨⟨⟨⟨⟨⟨h1, h2⟩, h3⟩, h4⟩, h5⟩, h6⟩, h7⟩, h8⟩, h9⟩ := h
    exact ⟨h1, h2, h3, h4, h5, h6, h7, h8, fun hx => by rcases h9 with h9 | h9 <;> simp_all⟩
  · rintro ⟨h1, h2, h3, h4, h5, h6, h7, h8, h9⟩
    simp only [Proxy.wf, Bool.and_eq_true, Bool.or_eq_true, Bool.not_eq_true', List.isEmpty_iff]
    refine ⟨⟨⟨⟨⟨⟨⟨⟨h1, h2⟩, h3⟩, h4⟩, h5⟩, h6⟩, h7⟩, h8⟩, ?_⟩
    cases hs : x.skipFrame
    · exact .inl rfl
    · exact .inr (h9 hs)

theorem ProxyOk.mark {p : Params} {x : Proxy} (h : ProxyOk p x) (r : ProxyRegion) (o : Nat) : ProxyOk p (x.mark p r o) := by
  obtain ⟨h1, h2, h3, h4, h5, h6, h7, h8, h9⟩ := h
  cases r
  · exact ⟨h1, h2, h3, h4, h5, h6, h7, h8, h9⟩
  · exact ⟨h1, h2, h3, h4, h5, rising_insertNat _ _ h6, h7, h8, h9⟩
  · exact ⟨h1, h2, h3, h4, h5, h6, h7, h8, h9⟩

theorem ProxyOk.region {p : Params} {x : Proxy} (h : ProxyOk p x) (r : ProxyRegion) :
    Memory.wfZ (proxySize p r) (x.region r) = true := by
  cases r
  · exact h.palette
  · exact h.vram
  · exact h.oam

theorem ProxyOk.setRegion {p : Params} {x : Proxy} (h : ProxyOk p x) (r : ProxyRegion) (m : Memory)
    (hm : Memory.wfZ (proxySize p r) m = true) : ProxyOk p (x.setRegion r m) := by
  obtain ⟨h1, h2, h3, h4, h5, h6, h7, h8, h9⟩ := h
  cases r
  · exact ⟨hm, h2, h3, h4, h5, h6, h7, h8, h9⟩
  · exact ⟨h1, hm, h3, h4, h5, h6, h7, h8, h9⟩
  · exact ⟨h1, h2, hm, h4, h5, h6, h7, h8, h9⟩

theorem proxyCheck_ok {p : Params} {r : ProxyRegion} {o n : Nat} {u : Unit} (h : proxyCheck p r o n = .ok u) :
    o % n = 0 ∧ o + n ≤ proxySize p r := by
  simp only [proxyCheck] at h
  split at h
  · assumption
  · cases h

theorem ProxyOk.store {p : Params} {x y : Proxy} {r : ProxyRegion} {o : Nat} {w : Width} {v : Word} (h : ProxyOk p x)
    (hz : p.paletteSize % 2 = 0 ∧ p.vramSize % 2 = 0) (hs : proxyStore p x r o w v = .ok y) : ProxyOk p y := by
  simp only [proxyStore, pure_eq_ok] at hs
  obtain ⟨u, hu, hr⟩ := bind_eq_ok.mp hs
  have hc := proxyCheck_ok hu
  clear hs hu
  split at hr
  · rename_i hb
    obtain ⟨rfl, -⟩ := hb
    cases hr
    have ho : o < proxySize p r := by
      have := hc.2
      simp only [Width.bytes] at this
      omega
    cases r with
    | oam => exact h
    | palette =>
      simp only [proxyMirrorByte]
      refine ProxyOk.mark (ProxyOk.setRegion h _ _ ?_) _ _
      refine Memory.wfZ_writeZ _ _ _ _ ?_ (Memory.wfZ_writeZ _ _ _ _ ?_ (h.region .palette)) <;>
        simp only [proxySize] at ho ⊢ <;> omega
    | vram =>
      simp only [proxyMirrorByte]
      refine ProxyOk.mark (ProxyOk.setRegion h _ _ ?_) _ _
      refine Memory.wfZ_writeZ _ _ _ _ ?_ (Memory.wfZ_writeZ _ _ _ _ ?_ (h.region .vram)) <;>
        simp only [proxySize] at ho ⊢ <;> omega
  · cases hr
    exact ProxyOk.mark (ProxyOk.setRegion h _ _ (Memory.wfZ_writeNZ _ _ _ _ _ hc.2 (h.region r))) _ _

theorem Proxy.wf_store {p : Params} {x y : Proxy} {r : ProxyRegion} {o : Nat} {w : Width} {v : Word} (h : x.wf p = true)
    (hz : p.paletteSize % 2 = 0 ∧ p.vramSize % 2 = 0) (hs : proxyStore p x r o w v = .ok y) : y.wf p = true :=
  Proxy.wf_iff.mpr (ProxyOk.store (Proxy.wf_iff.mp h) hz hs)

/-! ### The memory interface -/

/-- `t` is `s` after accesses of the memory interface: only memory, the units, the I/O log, the raced words and the count of
draws may differ, and the canonical forms are kept. -/
structure MemRel (s t : State) : Prop where
  eq : t = { s with stale := t.stale, draws := t.draws, save := t.save, mem := t.mem, ioLog := t.ioLog, proxy := t.proxy }
  inv : DataInv s → DataInv t

theorem MemRel.refl (s : State) : MemRel s s := ⟨rfl, id⟩

theorem MemRel.trans {s t u : State} (h : MemRel s t) (h' : MemRel t u) : MemRel s u :=
  ⟨by rw [h'.eq, h.eq], fun hs => h'.inv (h.inv hs)⟩

/-- What a load can do (R222): advance the EEPROM's cursor, use a free value; nothing else. -/
theorem busLoad_eq {w : Width} {a v : Word} {s t : State} (h : busLoad w a s = .ok (v, t)) :
    t = { s with draws := t.draws, save := t.save } ∧ (Save.wf s.params s.save = true → Save.wf s.params t.save = true) := by
  simp only [busLoad, draw, pure_eq_ok] at h
  split at h
  case h_4 =>
    cases h
    exact ⟨rfl, id⟩
  case h_8 =>
    obtain ⟨r, hr, h⟩ := bind_eq_ok.mp h
    cases h
    exact ⟨rfl, fun hs => Save.wf_saveLoad hs (stopAt_eq_ok.mp hr)⟩
  case h_1 => cases h
  all_goals
    obtain ⟨r, -, h⟩ := bind_eq_ok.mp h
    cases h
    exact ⟨rfl, id⟩

theorem busLoad_rel {w : Width} {a v : Word} {s t : State} (h : busLoad w a s = .ok (v, t)) : MemRel s t := by
  obtain ⟨he, hw⟩ := busLoad_eq h
  refine ⟨?_, fun hs => ?_⟩
  · rw [he]
  · obtain ⟨h1, h2, h3, h4⟩ := hs
    rw [he]
    exact ⟨h1, h2, hw h3, h4⟩

/-- What a store can do (R202, R222). -/
theorem busStore_rel {w : Width} {a v : Word} {s t : State} (h : busStore w a v s = .ok t) :
    MemRel s t ∧ t.stale = s.stale := by
  simp only [busStore, pure_eq_ok] at h
  split at h
  · cases h
  · cases h
    exact ⟨⟨rfl, fun hs => ⟨hs.sizes, Memory.wf_writeN _ _ _ _ hs.mem, hs.save, hs.proxy⟩⟩, rfl⟩
  · cases h
    exact ⟨⟨rfl, id⟩, rfl⟩
  · cases h
    exact ⟨⟨rfl, fun hs => ⟨hs.sizes, hs.mem, hs.save, hs.proxy⟩⟩, rfl⟩
  all_goals
    obtain ⟨r, hr, h⟩ := bind_eq_ok.mp h
    have hr := stopAt_eq_ok.mp hr
    cases h
  · exact ⟨⟨rfl, fun hs => ⟨hs.sizes, hs.mem, hs.save, Proxy.wf_store hs.proxy hs.sizes hr⟩⟩, rfl⟩
  · exact ⟨⟨rfl, fun hs => ⟨hs.sizes, hs.mem, hs.save, Proxy.wf_store hs.proxy hs.sizes hr⟩⟩, rfl⟩
  · exact ⟨⟨rfl, fun hs => ⟨hs.sizes, hs.mem, hs.save, Proxy.wf_store hs.proxy hs.sizes hr⟩⟩, rfl⟩
  · exact ⟨⟨rfl, fun hs => ⟨hs.sizes, hs.mem, Save.wf_saveStore hs.save hr, hs.proxy⟩⟩, rfl⟩

/-- A race is an address the store reaches, with the word held there before the store (R250). -/
theorem mem_raceEntry {w : Width} {a x : Word} {s t : State} {e : Stale} (h : e ∈ raceEntry w a x s t) :
    e = ⟨x, peek (fetchWidth s) x s⟩ ∧ storeReaches s.params w a (fetchWidth s) x = true ∧
      peek (fetchWidth s) x s ≠ peek (fetchWidth s) x t := by
  simp only [raceEntry] at h
  split at h
  · rename_i hc
    simp only [Bool.and_eq_true, bne_iff_ne] at hc
    exact ⟨List.mem_singleton.mp h, hc.1, hc.2⟩
  · simp at h

/-- A store of the CPU unit is the store of the interface, and adds races at the two prefetched addresses alone (R250). -/
theorem cpuStore_eq {w : Width} {a v : Word} {s t : State} (h : cpuStore w a v s = .ok t) :
    ∃ u, busStore w a v s = .ok u ∧ t = { u with stale := t.stale } ∧
      ∀ e ∈ t.stale, e ∈ s.stale ∨ (e.addr = s.pc + instrStep s ∨ e.addr = s.pc + instrStep s + instrStep s) ∧
        e.old = peek (fetchWidth s) e.addr s ∧ storeReaches s.params w a (fetchWidth s) e.addr = true ∧
          peek (fetchWidth s) e.addr s ≠ peek (fetchWidth s) e.addr u := by
  simp only [cpuStore, pure_eq_ok] at h
  obtain ⟨u, h1, h⟩ := bind_eq_ok.mp h
  cases h
  refine ⟨u, h1, rfl, fun e he => ?_⟩
  simp only [List.mem_append, (busStore_rel h1).2] at he
  rcases he with (he | he) | he
  · exact .inl he
  all_goals
    obtain ⟨rfl, h2, h3⟩ := mem_raceEntry he
    exact .inr ⟨by simp, rfl, h2, h3⟩

theorem cpuStore_rel {w : Width} {a v : Word} {s t : State} (h : cpuStore w a v s = .ok t) : MemRel s t := by
  obtain ⟨u, h1, h2, -⟩ := cpuStore_eq h
  obtain ⟨⟨he, hi⟩, -⟩ := busStore_rel h1
  refine ⟨?_, fun hs => ?_⟩
  · rw [h2, he]
  · rw [h2]
    exact (hi hs).congr rfl rfl rfl rfl

/-- What a load of an instruction can do: an access of the interface, nothing else. -/
theorem loadValue_rel {k : Transfer} {a v : Word} {s t : State} (h : loadValue k a s = .ok (v, t)) : MemRel s t := by
  simp only [loadValue, pure_eq_ok] at h
  split at h
  · exact busLoad_rel h
  · obtain ⟨⟨v', t'⟩, hr, h⟩ := bind_eq_ok.mp h
    cases h
    exact busLoad_rel hr
  · split at h
    · obtain ⟨u, -, h⟩ := bind_eq_ok.mp h
      obtain ⟨⟨v', t'⟩, hr, h⟩ := bind_eq_ok.mp h
      cases h
      exact busLoad_rel hr
    · exact busLoad_rel h
  · split at h
    · obtain ⟨u, -, h⟩ := bind_eq_ok.mp h
      obtain ⟨⟨v', t'⟩, hr, h⟩ := bind_eq_ok.mp h
      cases h
      exact busLoad_rel hr
    · obtain ⟨⟨v', t'⟩, hr, h⟩ := bind_eq_ok.mp h
      cases h
      exact busLoad_rel hr
  · obtain ⟨⟨v', t'⟩, hr, h⟩ := bind_eq_ok.mp h
    cases h
    exact busLoad_rel hr

theorem storeValue_rel {k : Transfer} {a v : Word} {s t : State} (h : storeValue k a v s = .ok t) : MemRel s t := by
  simp only [storeValue] at h
  split at h
  · exact cpuStore_rel h
  · obtain ⟨u, -, h⟩ := bind_eq_ok.mp h
    exact cpuStore_rel h
  · exact cpuStore_rel h

theorem loadWords_rel {n : Nat} {start : Word} {vs : List Word} {s t : State} (h : loadWords start n s = .ok (vs, t)) :
    MemRel s t ∧ vs.length = n := by
  induction n generalizing start s vs with
  | zero =>
    cases h
    exact ⟨MemRel.refl _, rfl⟩
  | succ n ih =>
    simp only [loadWords, pure_eq_ok] at h
    obtain ⟨⟨v, s1⟩, h1, h⟩ := bind_eq_ok.mp h
    obtain ⟨⟨vs', s2⟩, h2, h⟩ := bind_eq_ok.mp h
    cases h
    obtain ⟨h3, h4⟩ := ih h2
    exact ⟨(busLoad_rel h1).trans h3, by simp [h4]⟩

theorem storeWords_rel {vs : List Word} {start : Word} {s t : State} (h : storeWords start vs s = .ok t) : MemRel s t := by
  induction vs generalizing start s with
  | nil =>
    cases h
    exact MemRel.refl _
  | cons v vs ih =>
    simp only [storeWords] at h
    obtain ⟨s1, h1, h⟩ := bind_eq_ok.mp h
    exact (cpuStore_rel h1).trans (ih h)

theorem swiAccesses_rel {l : List SwiAccess} {s t : State} (h : swiAccesses l s = .ok t) : MemRel s t := by
  induction l generalizing s with
  | nil =>
    cases h
    exact MemRel.refl _
  | cons e rest ih =>
    cases e with
    | load w a =>
      simp only [swiAccesses] at h
      obtain ⟨⟨v, s1⟩, h1, h⟩ := bind_eq_ok.mp h
      exact (busLoad_rel h1).trans (ih h)
    | store w a v =>
      simp only [swiAccesses] at h
      obtain ⟨s1, h1, h⟩ := bind_eq_ok.mp h
      exact (cpuStore_rel h1).trans (ih h)

/-- The fields an access leaves alone. -/
theorem MemRel.fields {s t : State} (h : MemRel s t) :
    t.params = s.params ∧ t.regs = s.regs ∧ t.pc = s.pc ∧ t.cpsr = s.cpsr ∧ t.spsr = s.spsr ∧ t.cycles = s.cycles ∧
      t.afterUserLdm = s.afterUserLdm ∧ t.irqLine = s.irqLine ∧ t.dma3Count = s.dma3Count ∧
      t.dma3Enable = s.dma3Enable ∧ t.swiCalls = s.swiCalls ∧ t.schedule = s.schedule ∧ t.outputs = s.outputs := by
  rw [h.eq]
  exact ⟨rfl, rfl, rfl, rfl, rfl, rfl, rfl, rfl, rfl, rfl, rfl, rfl, rfl⟩

theorem MemRel.params {s t : State} (h : MemRel s t) : t.params = s.params := h.fields.1
theorem MemRel.regs {s t : State} (h : MemRel s t) : t.regs = s.regs := h.fields.2.1
theorem MemRel.pc {s t : State} (h : MemRel s t) : t.pc = s.pc := h.fields.2.2.1
theorem MemRel.cpsr {s t : State} (h : MemRel s t) : t.cpsr = s.cpsr := h.fields.2.2.2.1
theorem MemRel.spsr {s t : State} (h : MemRel s t) : t.spsr = s.spsr := h.fields.2.2.2.2.1

end Sys2Proof.Machine
end

