-- ==== Sys2Proof/Laws/Exec.lean ====
section
/-! SUPPORT. What any instruction can do, shape by shape: the inputs, the parameters, the host's queues stay as they are, the
canonical forms are kept, and the pc stays aligned for the state the instruction leaves. -/

namespace Sys2Proof.Machine

/-! ### Alignment -/

theorem and3_eq_zero (v : Word) : v &&& 3#32 = 0#32 ↔ v.toNat % 4 = 0 := by
  rw [← BitVec.toNat_inj, BitVec.toNat_and]
  have : (3#32).toNat = 2 ^ 2 - 1 := rfl
  rw [this, Nat.and_two_pow_sub_one_eq_mod]
  rfl

theorem and1_eq_zero (v : Word) : v &&& 1#32 = 0#32 ↔ v.toNat % 2 = 0 := by
  rw [← BitVec.toNat_inj, BitVec.toNat_and]
  have : (1#32).toNat = 2 ^ 1 - 1 := rfl
  rw [this, Nat.and_two_pow_sub_one_eq_mod]
  rfl

theorem State.pcAligned_iff (s : State) :
    s.pcAligned = true ↔ if s.cpsr.t then s.pc.toNat % 2 = 0 else s.pc.toNat % 4 = 0 := by
  cases h : s.cpsr.t <;> simp [State.pcAligned, h, and3_eq_zero, and1_eq_zero]

theorem alignWord_and3 (v : Word) : v &&& 0xFFFFFFFC#32 &&& 3#32 = 0#32 := by
  rw [BitVec.and_assoc]
  simp

theorem alignHalf_and1 (v : Word) : v &&& 0xFFFFFFFE#32 &&& 1#32 = 0#32 := by
  rw [BitVec.and_assoc]
  simp

/-- An aligned step. -/
theorem toNat_add_mod (a b : Word) (k : Nat) (hk : k ∣ 2 ^ 32) (ha : a.toNat % k = 0) (hb : b.toNat % k = 0) :
    (a + b).toNat % k = 0 := by
  rw [BitVec.toNat_add, Nat.mod_mod_of_dvd _ hk, Nat.add_mod, ha, hb]
  simp

theorem toNat_shl_mod (a : Word) (k : Nat) (hk : k ≤ 32) : (a <<< k).toNat % 2 ^ k = 0 := by
  rw [BitVec.toNat_shiftLeft, Nat.mod_mod_of_dvd _ (Nat.pow_dvd_pow 2 hk), Nat.shiftLeft_eq]
  simp

/-! ### The relation -/

/-- `t` is `s` after what an instruction can do. -/
structure ExecRel (s t : State) : Prop where
  rest : SameRest s t
  inv : DataInv s → DataInv t

theorem ExecRel.refl (s : State) : ExecRel s s := ⟨⟨rfl, rfl, rfl, rfl, rfl, rfl, rfl⟩, id⟩

theorem ExecRel.trans {s t u : State} (h : ExecRel s t) (h' : ExecRel t u) : ExecRel s u := by
  obtain ⟨⟨a1, a2, a3, a4, a5, a6, a7⟩, b⟩ := h
  obtain ⟨⟨c1, c2, c3, c4, c5, c6, c7⟩, d⟩ := h'
  exact ⟨⟨c1.trans a1, c2.trans a2, c3.trans a3, c4.trans a4, c5.trans a5, c6.trans a6, c7.trans a7⟩, d ∘ b⟩

/-- An update of the CPU unit's own fields, of the count of draws and of the service calls. -/
theorem ExecRel.cpu (s : State) (regs : RegFile) (pc : Word) (cpsr : Cpsr) (spsr : Spsrs) (a : Bool) (l' : List Stale) (d : Nat)
    (l : List SwiCall) :
    ExecRel s
      { s with
        regs := regs, pc := pc, cpsr := cpsr, spsr := spsr, afterUserLdm := a, stale := l', draws := d, swiCalls := l } :=
  ⟨⟨rfl, rfl, rfl, rfl, rfl, rfl, rfl⟩, fun h => h.congr rfl rfl rfl rfl⟩

theorem ExecRel.mem {s t : State} (h : MemRel s t) : ExecRel s t := by
  obtain ⟨h1, h2, h3, h4, h5, h6, h7, h8, h9, h10, h11, h12, h13⟩ := h.fields
  exact ⟨⟨h1, h6, h8, h9, h10, h12, h13⟩, h.inv⟩

theorem ExecRel.begun (s : State) : ExecRel s s.begun := ExecRel.cpu s _ _ _ _ _ _ _ _
theorem ExecRel.setBankReg (s : State) (m : Mode) (i : RegNum) (v : Word) : ExecRel s (s.setBankReg m i v) :=
  ExecRel.cpu s _ _ _ _ _ _ _ _
theorem ExecRel.setX (s : State) (i : RegNum) (v : Word) : ExecRel s (s.setX i v) := ExecRel.cpu s _ _ _ _ _ _ _ _
theorem ExecRel.setLo (s : State) (r : LowReg) (v : Word) : ExecRel s (s.setLo r v) := ExecRel.cpu s _ _ _ _ _ _ _ _
theorem ExecRel.advance (s : State) (w : Word) : ExecRel s (s.advance w) := ExecRel.cpu s _ _ _ _ _ _ _ _
theorem ExecRel.jump (s : State) (w : Word) : ExecRel s (s.jump w) := ExecRel.cpu s _ _ _ _ _ _ _ _
theorem ExecRel.setCpsr (s : State) (p : Cpsr) : ExecRel s { s with cpsr := p } := ExecRel.cpu s _ _ _ _ _ _ _ _
theorem ExecRel.takeException (e : Exc) (lr : Word) (s : State) : ExecRel s (takeException e lr s) :=
  ExecRel.cpu s _ _ _ _ _ _ _ _

theorem ExecRel.setIfSome (s : State) (i : RegNum) (v : Option Word) : ExecRel s (setIfSome s i v) := by
  cases v with
  | none => exact ExecRel.refl s
  | some v => exact ExecRel.setX s i v

theorem ExecRel.writeRegs (m : Mode) (l : List (RegNum × Word)) (s : State) : ExecRel s (writeRegs m l s) := by
  induction l generalizing s with
  | nil => exact ExecRel.refl s
  | cons e rest ih =>
    obtain ⟨r, v⟩ := e
    simp only [Machine.writeRegs]
    split
    · exact ih s
    · exact (ExecRel.setBankReg s m r v).trans (ih _)

theorem writeRegs_pc (m : Mode) (l : List (RegNum × Word)) (s : State) :
    (writeRegs m l s).pc = s.pc ∧ (writeRegs m l s).cpsr = s.cpsr ∧ (writeRegs m l s).spsr = s.spsr := by
  induction l generalizing s with
  | nil => exact ⟨rfl, rfl, rfl⟩
  | cons e rest ih =>
    obtain ⟨r, v⟩ := e
    simp only [writeRegs]
    split
    · exact ih s
    · exact ih _

/-- A write of several registers leaves every other register of every bank. -/
theorem writeRegs_bankReg (m m' : Mode) (j : RegNum) (l : List (RegNum × Word)) (s : State)
    (h : ∀ p ∈ l, p.1 = 15#4 ∨ physIndex m' j ≠ physIndex m p.1) : (writeRegs m l s).bankReg m' j = s.bankReg m' j := by
  induction l generalizing s with
  | nil => rfl
  | cons p l ih =>
    simp only [writeRegs]
    rw [ih _ (fun q hq => h q (List.mem_cons_of_mem _ hq))]
    split
    · rfl
    · rename_i hr
      have h2 : physIndex m p.1 ≠ physIndex m' j := fun e => (h p (by simp)).elim hr (fun h => h e.symm)
      simp [State.bankReg, State.setBankReg, Fin.val_ne_of_ne h2]

theorem setIfSome_pc (s : State) (i : RegNum) (v : Option Word) :
    (setIfSome s i v).pc = s.pc ∧ (setIfSome s i v).cpsr = s.cpsr ∧ (setIfSome s i v).spsr = s.spsr := by
  cases v <;> exact ⟨rfl, rfl, rfl⟩

/-! ### Branches, exceptions, the service -/

/-- A branch in ARM state: the pc, aligned (R107), the pipeline refilled. -/
theorem branchArm_eq {v : Word} {s t : State} (h : branchArm v s = .ok t) : t = s.jump (v &&& 0xFFFFFFFC#32) := by
  simp only [branchArm, pure_eq_ok] at h
  obtain ⟨u, -, h⟩ := bind_eq_ok.mp h
  cases h
  rfl

theorem branchByT_eq {v : Word} {s t : State} (h : branchByT v s = .ok t) :
    t = s.jump (alignTarget s.cpsr.t v) := by
  simp only [branchByT] at h
  cases hT : s.cpsr.t
  · simp only [hT] at h
    exact branchArm_eq h
  · simp only [hT] at h
    cases h
    rfl

theorem pcAligned_alignTarget (s : State) (v : Word) : (s.jump (alignTarget s.cpsr.t v)).pcAligned = true := by
  cases h : s.cpsr.t <;> simp only [State.pcAligned, State.jump_cpsr, State.jump_pc, alignTarget, h]
  · simp [alignWord_and3]
  · simp [alignHalf_and1]

theorem pcAligned_takeException (e : Exc) (lr : Word) (s : State) : (takeException e lr s).pcAligned = true := by
  cases e <;> simp [State.pcAligned, Exc.vector]

/-- The return from an exception: the status from the saved word, the pc aligned for its T (R122). -/
theorem returnFromException_eq {saved target : Word} {s t : State} (h : returnFromException saved target s = .ok t) :
    ∃ p, Cpsr.unpack saved = .ok p ∧ t = { s with cpsr := p, stale := [], pc := alignTarget p.t target } := by
  simp only [returnFromException] at h
  obtain ⟨p, hp, h⟩ := bind_eq_ok.mp h
  exact ⟨p, stopAt_eq_ok.mp hp, branchByT_eq h⟩

theorem undefined_eq {bits w : Word} {s t : State} (h : undefined bits w s = .ok t) :
    t = takeException .undefined (s.pc + w) s := by
  simp only [undefined] at h
  split at h <;> cases h
  rfl

theorem runScript_rel {x : SwiScript} {s t : State} (h : runScript x s = .ok t) :
    ExecRel s t ∧ t.pc = s.pc ∧ t.cpsr = s.cpsr ∧ t.spsr = s.spsr := by
  simp only [runScript, pure_eq_ok] at h
  obtain ⟨s1, h1, h⟩ := bind_eq_ok.mp h
  cases h
  have hm := swiAccesses_rel h1
  refine ⟨(ExecRel.mem hm).trans (((ExecRel.setIfSome _ _ _).trans (ExecRel.setIfSome _ _ _)).trans
    ((ExecRel.setIfSome _ _ _).trans (ExecRel.setIfSome _ _ _))), ?_, ?_, ?_⟩
  · simp only [(setIfSome_pc _ _ _).1, hm.pc]
  · simp only [(setIfSome_pc _ _ _).2.1, hm.cpsr]
  · simp only [(setIfSome_pc _ _ _).2.2, hm.spsr]

theorem swiService_rel {k : SwiCall} {s t : State} (h : swiService k s = .ok t) :
    ExecRel s t ∧ t.pc = s.pc ∧ t.cpsr = s.cpsr ∧ t.spsr = s.spsr := by
  obtain ⟨h1, h2, h3, h4⟩ := runScript_rel h
  exact ⟨(ExecRel.cpu s _ _ _ _ _ _ _ _).trans h1, h2, h3, h4⟩

theorem softwareInterrupt_cases {k : SwiCall} {w : Word} {s t : State} (h : softwareInterrupt k w s = .ok t) :
    (s.params.swiMode = .trap ∧ t = takeException .swi (s.pc + w) s) ∨
      (s.params.swiMode = .external ∧ ∃ s', swiService k s = .ok s' ∧ t = s'.advance w) := by
  simp only [softwareInterrupt, pure_eq_ok] at h
  split at h
  · cases h
    exact .inl ⟨by assumption, rfl⟩
  · obtain ⟨s', h1, h⟩ := bind_eq_ok.mp h
    cases h
    exact .inr ⟨by assumption, s', h1, rfl⟩

/-! ### What each instruction leaves -/

/-- The result of an instruction in ARM or Thumb state: the relation, and the pc aligned where it was. -/
structure Leaves (thumb : Bool) (s t : State) : Prop where
  rel : ExecRel s t
  pc : s.cpsr.t = thumb → s.pcAligned = true → t.pcAligned = true

/-- An instruction that moves the pc to the next one and leaves T alone. -/
theorem Leaves.step {thumb : Bool} {s t : State} (h : ExecRel s t) (hpc : t.pc = s.pc + if thumb then 2 else 4)
    (ht : t.cpsr.t = s.cpsr.t) : Leaves thumb s t := by
  refine ⟨h, fun hT hal => ?_⟩
  rw [State.pcAligned_iff] at hal ⊢
  rw [ht, hpc]
  rw [hT] at hal ⊢
  cases thumb
  · simp only [Bool.false_eq_true, if_false] at hal ⊢
    exact toNat_add_mod _ _ 4 (by decide) hal rfl
  · simp only [if_true] at hal ⊢
    exact toNat_add_mod _ _ 2 (by decide) hal rfl

/-- An instruction that leaves an aligned pc whatever it was. -/
theorem Leaves.jump {thumb : Bool} {s t : State} (h : ExecRel s t) (hpc : t.pcAligned = true) : Leaves thumb s t :=
  ⟨h, fun _ _ => hpc⟩

theorem Leaves.begun {thumb : Bool} {s t : State} (h : Leaves thumb s.begun t) : Leaves thumb s t :=
  ⟨(ExecRel.begun s).trans h.rel, h.pc⟩

theorem Leaves.branchArm {thumb : Bool} {v : Word} {s s' t : State} (hr : ExecRel s s') (hT : thumb = false)
    (hs : s'.cpsr.t = s.cpsr.t) (h : branchArm v s' = .ok t) : Leaves thumb s t := by
  subst hT
  rw [branchArm_eq h]
  refine ⟨hr.trans (ExecRel.jump _ _), fun hT _ => ?_⟩
  have := pcAligned_alignTarget s' v
  simpa [alignTarget, hs, hT] using this

theorem Leaves.branchByT {thumb : Bool} {v : Word} {s s' t : State} (hr : ExecRel s s') (h : branchByT v s' = .ok t) :
    Leaves thumb s t := by
  rw [branchByT_eq h]
  exact Leaves.jump (hr.trans (ExecRel.jump _ _)) (pcAligned_alignTarget _ _)

theorem Leaves.exception {thumb : Bool} {e : Exc} {lr : Word} {s s' : State} (hr : ExecRel s s') :
    Leaves thumb s (takeException e lr s') :=
  Leaves.jump (hr.trans (ExecRel.takeException _ _ _)) (pcAligned_takeException _ _ _)

theorem Leaves.returns {thumb : Bool} {v w : Word} {s s' t : State} (hr : ExecRel s s')
    (h : returnFromException v w s' = .ok t) : Leaves thumb s t := by
  obtain ⟨p, -, rfl⟩ := returnFromException_eq h
  exact Leaves.jump (hr.trans (ExecRel.cpu _ _ _ _ _ _ _ _ _)) (pcAligned_alignTarget { s' with cpsr := p } _)

/-- An ARM instruction leaves what its body leaves. -/
theorem runArm_leaves {c : Cond} {regs : List RegNum} {checks : State → Except Fault Unit}
    {body : State → Except Fault State} {s t : State} (hb : ∀ s t, body s = .ok t → Leaves false s t)
    (h : runArm c regs checks body s = .next t) : Leaves false s t := by
  rcases runArm_next h with ⟨-, rfl⟩ | ⟨-, -, h⟩
  · exact (Leaves.step (ExecRel.advance _ _) rfl rfl).begun
  · exact (hb _ _ h).begun

theorem runThumb_leaves {body : State → Except Fault State} {s t : State}
    (hb : ∀ s t, body s = .ok t → Leaves true s t) (h : runThumb body s = .next t) : Leaves true s t :=
  (hb _ _ (runThumb_next.mp h)).begun

theorem dataProcessing_leaves {op : DpOp} {c : Cond} {f : Bool} {rn rd : RegNum} {o : Operand2} {s t : State}
    (h : dataProcessing op c f rn rd o s = .next t) : Leaves false s t := by
  refine runArm_leaves (fun s t h => ?_) h
  generalize dpResult op rn o s = out at h
  simp only [dpWrite] at h
  split at h
  · cases h
    exact Leaves.step (ExecRel.trans (by split; exact ExecRel.setCpsr _ _; exact ExecRel.refl _) (ExecRel.advance _ _))
      (by split <;> rfl) (by split <;> rfl)
  · split at h
    · split at h
      · simp only [dpReturn] at h
        split at h
        · exact Leaves.returns (ExecRel.refl _) h
        · obtain ⟨u, -, h⟩ := bind_eq_ok.mp h
          exact Leaves.branchArm (s' := { s with cpsr := s.cpsr.setAlu out }) (ExecRel.setCpsr _ _) rfl rfl h
      · exact Leaves.branchArm (ExecRel.refl _) rfl rfl h
    · cases h
      exact Leaves.step (ExecRel.trans (by split; exact ExecRel.setCpsr _ _; exact ExecRel.refl _)
        ((ExecRel.setX _ _ _).trans (ExecRel.advance _ _))) (by split <;> rfl) (by split <;> rfl)

theorem mulFlags_rel (r : Word) (s : State) : ExecRel s (mulFlags r s) := ExecRel.cpu s _ _ _ _ _ _ _ _
theorem longFlags_rel (r : BitVec 64) (s : State) : ExecRel s (longFlags r s) := ExecRel.cpu s _ _ _ _ _ _ _ _

theorem multiply_leaves {c : Cond} {f : Bool} {rd : RegNum} {acc : Option RegNum} {rs rm : RegNum} {s t : State}
    (h : multiply c f rd acc rs rm s = .next t) : Leaves false s t := by
  refine runArm_leaves (fun s t h => ?_) h
  cases h
  exact Leaves.step (ExecRel.trans (by split; exact mulFlags_rel _ _; exact ExecRel.refl _)
    ((ExecRel.setX _ _ _).trans (ExecRel.advance _ _))) (by split <;> rfl) (by split <;> rfl)

theorem longMultiply_leaves {sg acc : Bool} {c : Cond} {f : Bool} {rdHi rdLo rs rm : RegNum} {s t : State}
    (h : longMultiply sg acc c f rdHi rdLo rs rm s = .next t) : Leaves false s t := by
  refine runArm_leaves (fun s t h => ?_) h
  cases h
  exact Leaves.step (ExecRel.trans (by split; exact longFlags_rel _ _; exact ExecRel.refl _)
    ((ExecRel.setX _ _ _).trans ((ExecRel.setX _ _ _).trans (ExecRel.advance _ _)))) (by split <;> rfl) (by split <;> rfl)

theorem moveFromStatus_leaves {c : Cond} {spsr : Bool} {rd : RegNum} {s t : State}
    (h : moveFromStatus c spsr rd s = .next t) : Leaves false s t := by
  refine runArm_leaves (fun s t h => ?_) h
  simp only [pure_eq_ok] at h
  obtain ⟨v, -, h⟩ := bind_eq_ok.mp h
  cases h
  exact Leaves.step ((ExecRel.setX _ _ _).trans (ExecRel.advance _ _)) rfl rfl

/-- What MSR to the CPSR can do: only the CPSR, and not its T (R565). -/
theorem writeCpsr_eq {mask : BitVec 4} {v : Word} {s t : State} (h : writeCpsr mask v s = .ok t) :
    ∃ p, t = { s with cpsr := p } ∧ p.t = s.cpsr.t := by
  simp only [writeCpsr, pure_eq_ok] at h
  split at h
  · split at h
    · obtain ⟨u, -, h⟩ := bind_eq_ok.mp h
      obtain ⟨m, -, h⟩ := bind_eq_ok.mp h
      cases h
      exact ⟨_, rfl, rfl⟩
    · cases h
      exact ⟨_, rfl, rfl⟩
  · split at h
    · obtain ⟨u, -, h⟩ := bind_eq_ok.mp h
      obtain ⟨m, -, h⟩ := bind_eq_ok.mp h
      cases h
      exact ⟨_, rfl, rfl⟩
    · cases h
      exact ⟨_, rfl, rfl⟩

theorem writeSpsr_eq {mask : BitVec 4} {v : Word} {s t : State} (h : writeSpsr mask v s = .ok t) :
    ∃ x, t = { s with spsr := x } := by
  simp only [writeSpsr, pure_eq_ok] at h
  split at h
  · cases h
    exact ⟨_, rfl⟩
  · obtain ⟨u, -, h⟩ := bind_eq_ok.mp h
    cases h
    exact ⟨s.spsr, rfl⟩

theorem moveToStatus_leaves {c : Cond} {spsr : Bool} {mask : BitVec 4} {o : Operand2} {s t : State}
    (h : moveToStatus c spsr mask o s = .next t) : Leaves false s t := by
  refine runArm_leaves (fun s t h => ?_) h
  simp only [pure_eq_ok] at h
  split at h
  · obtain ⟨s', h1, h⟩ := bind_eq_ok.mp h
    cases h
    obtain ⟨x, rfl⟩ := writeSpsr_eq h1
    exact Leaves.step ((ExecRel.cpu _ _ _ _ _ _ _ _ _).trans (ExecRel.advance _ _)) rfl rfl
  · obtain ⟨s', h1, h⟩ := bind_eq_ok.mp h
    cases h
    obtain ⟨p, rfl, hp⟩ := writeCpsr_eq h1
    exact Leaves.step ((ExecRel.cpu _ _ _ _ _ _ _ _ _).trans (ExecRel.advance _ _)) rfl hp

theorem branchExchange_leaves {c : Cond} {rm : RegNum} {s t : State} (h : branchExchange c rm s = .next t) :
    Leaves false s t := by
  refine runArm_leaves (fun s t h => ?_) h
  exact Leaves.branchByT (ExecRel.setCpsr _ _) h

theorem branch_leaves {c : Cond} {link : Bool} {off : BitVec 24} {s t : State} (h : branch c link off s = .next t) :
    Leaves false s t := by
  refine runArm_leaves (fun s t h => ?_) h
  cases h
  have hr : ExecRel s (if link = true then s.setX 14#4 (s.pc + 4) else s) := by
    split
    · exact ExecRel.setX _ _ _
    · exact ExecRel.refl _
  refine ⟨hr.trans (ExecRel.jump _ _), fun hT hal => ?_⟩
  rw [State.pcAligned_iff] at hal ⊢
  have hc : (if link = true then s.setX 14#4 (s.pc + 4) else s).cpsr = s.cpsr := by split <;> rfl
  simp only [State.jump_cpsr, State.jump_pc, hc, hT, Bool.false_eq_true, if_false] at hal ⊢
  simp only [branchTarget]
  exact toNat_add_mod _ _ 4 (by decide) (toNat_add_mod _ _ 4 (by decide) hal rfl) (toNat_shl_mod _ 2 (by decide))

theorem swap_leaves {l k : Transfer} {c : Cond} {rn rd rm : RegNum} {s t : State} (h : swap l k c rn rd rm s = .next t) :
    Leaves false s t := by
  refine runArm_leaves (fun s t h => ?_) h
  simp only [pure_eq_ok] at h
  obtain ⟨⟨v, s1⟩, h1, h⟩ := bind_eq_ok.mp h
  obtain ⟨s2, h2, h⟩ := bind_eq_ok.mp h
  cases h
  have hm := (loadValue_rel h1).trans (storeValue_rel h2)
  exact Leaves.step ((ExecRel.mem hm).trans ((ExecRel.setX _ _ _).trans (ExecRel.advance _ _)))
    (by simp [hm.pc]) (by simp [hm.cpsr])

theorem writeBackBase_rel (x : Indexing) (rn : RegNum) (v : Word) (s : State) :
    ExecRel s (writeBackBase x rn v s) ∧ (writeBackBase x rn v s).pc = s.pc ∧ (writeBackBase x rn v s).cpsr = s.cpsr := by
  simp only [writeBackBase]
  split
  · exact ⟨ExecRel.setX _ _ _, rfl, rfl⟩
  · exact ⟨ExecRel.refl _, rfl, rfl⟩

theorem transferBody_leaves {k : Transfer} {x : Indexing} {rn rd : RegNum} {o : Offset} {s t : State}
    (h : transferBody k x rn rd o s = .ok t) : Leaves false s t := by
  simp only [transferBody, pure_eq_ok] at h
  split at h
  · obtain ⟨⟨v, s1⟩, h1, h⟩ := bind_eq_ok.mp h
    have hm := loadValue_rel h1
    obtain ⟨w1, w2, w3⟩ := writeBackBase_rel x rn (x.moved (s.x 8 rn) (o.eval s)) s1
    simp only [finishLoad] at h
    split at h
    · exact Leaves.branchArm ((ExecRel.mem hm).trans w1) rfl (by rw [w3, hm.cpsr]) h
    · cases h
      exact Leaves.step ((ExecRel.mem hm).trans (w1.trans ((ExecRel.setX _ _ _).trans (ExecRel.advance _ _))))
        (by simp only [State.advance_pc, State.setX_pc, w2, hm.pc]; rfl)
          (by simp only [State.advance_cpsr, State.setX_cpsr, w3, hm.cpsr])
  · obtain ⟨s1, h1, h⟩ := bind_eq_ok.mp h
    cases h
    have hm := storeValue_rel h1
    obtain ⟨w1, w2, w3⟩ := writeBackBase_rel x rn (x.moved (s.x 8 rn) (o.eval s)) s1
    exact Leaves.step ((ExecRel.mem hm).trans (w1.trans (ExecRel.advance _ _))) (by simp only [State.advance_pc, w2, hm.pc]; rfl)
      (by simp only [State.advance_cpsr, w3, hm.cpsr])

theorem transfer2_leaves {k : Transfer} {c : Cond} {x : Indexing} {rn rd : RegNum} {o : Offset} {s t : State}
    (h : transfer2 k c x rn rd o s = .next t) : Leaves false s t := by
  refine runArm_leaves (fun s t h => ?_) h
  exact transferBody_leaves h

theorem transfer3_leaves {k : Transfer} {c : Cond} {x : Indexing} {rn rd : RegNum} {o : Offset} {s t : State}
    (h : transfer3 k c x rn rd o s = .next t) : Leaves false s t := by
  refine runArm_leaves (fun s t h => ?_) h
  exact transferBody_leaves h

theorem writeBackBlock_rel (w : Bool) (rn : RegNum) (v : Word) (s : State) :
    ExecRel s (writeBackBlock w rn v s) ∧ (writeBackBlock w rn v s).pc = s.pc ∧ (writeBackBlock w rn v s).cpsr = s.cpsr ∧
      (writeBackBlock w rn v s).spsr = s.spsr := by
  simp only [writeBackBlock]
  split
  · exact ⟨ExecRel.setX _ _ _, rfl, rfl, rfl⟩
  · exact ⟨ExecRel.refl _, rfl, rfl, rfl⟩

theorem loadPc_leaves {ub : Bool} {v : Word} {s s' t : State} (hr : ExecRel s s') (hc : s'.cpsr = s.cpsr)
    (h : loadPc ub v s' = .ok t) : Leaves false s t := by
  simp only [loadPc] at h
  split at h
  · split at h
    · exact Leaves.returns hr h
    · obtain ⟨u, -, h⟩ := bind_eq_ok.mp h
      exact Leaves.branchArm hr rfl (by rw [hc]) h
  · exact Leaves.branchArm hr rfl (by rw [hc]) h

theorem blockLoad_leaves {bm : BlockMode} {c : Cond} {ub w : Bool} {rn : RegNum} {list : BitVec 16} {s t : State}
    (h : blockLoad bm c ub w rn list s = .next t) : Leaves false s t := by
  refine runArm_leaves (fun s t h => ?_) h
  split at h
  · simp only [loadEmpty] at h
    obtain ⟨⟨v, s1⟩, h1, h⟩ := bind_eq_ok.mp h
    have hm := busLoad_rel h1
    obtain ⟨w1, w2, w3, -⟩ := writeBackBlock_rel w rn (bm.writeBack (s.x 8 rn) (blockCount 0#16)) s1
    exact Leaves.branchArm ((ExecRel.mem hm).trans w1) rfl (by rw [w3, hm.cpsr]) h
  · simp only [loadMultiple, pure_eq_ok] at h
    obtain ⟨⟨vs, s1⟩, h1, h⟩ := bind_eq_ok.mp h
    obtain ⟨hm, -⟩ := loadWords_rel h1
    obtain ⟨w1, w2, w3, -⟩ := writeBackBlock_rel w rn (bm.writeBack (s.x 8 rn) (blockCount list)) s1
    generalize hs2 : writeRegs (if userBank true ub list = true then Mode.usr else s.cpsr.m) ((regList list).zip vs)
      (writeBackBlock w rn (bm.writeBack (s.x 8 rn) (blockCount list)) s1) = s2 at h
    have hr : ExecRel s s2 := hs2 ▸ (ExecRel.mem hm).trans (w1.trans (ExecRel.writeRegs _ _ _))
    have hp : s2.pc = s.pc := by rw [← hs2, (writeRegs_pc _ _ _).1, w2, hm.pc]
    have hc : s2.cpsr = s.cpsr := by rw [← hs2, (writeRegs_pc _ _ _).2.1, w3, hm.cpsr]
    split at h
    · exact loadPc_leaves hr hc h
    · cases h
      exact Leaves.step (hr.trans ((ExecRel.cpu _ _ _ _ _ _ _ _ _).trans (ExecRel.advance _ _)))
        (by simp [hp]) (by simp [hc])

theorem blockStore_leaves {bm : BlockMode} {c : Cond} {ub w : Bool} {rn : RegNum} {list : BitVec 16} {s t : State}
    (h : blockStore bm c ub w rn list s = .next t) : Leaves false s t := by
  refine runArm_leaves (fun s t h => ?_) h
  simp only [pure_eq_ok] at h
  obtain ⟨s1, h1, h⟩ := bind_eq_ok.mp h
  cases h
  have hm := storeWords_rel h1
  obtain ⟨w1, w2, w3, -⟩ := writeBackBlock_rel w rn (bm.writeBack (s.x 8 rn) (blockCount list)) s1
  exact Leaves.step ((ExecRel.mem hm).trans (w1.trans (ExecRel.advance _ _))) (by simp only [State.advance_pc, w2, hm.pc]; rfl)
      (by simp only [State.advance_cpsr, w3, hm.cpsr])

theorem undefinedArm_leaves {c : Cond} {w : Word} {s t : State} (h : undefinedArm c w s = .next t) : Leaves false s t := by
  refine runArm_leaves (fun s t h => ?_) h
  rw [undefined_eq h]
  exact Leaves.exception (ExecRel.refl _)

theorem softwareInterrupt_leaves {thumb : Bool} {k : SwiCall} {w : Word} (hw : w = if thumb then 2 else 4) {s t : State}
    (h : softwareInterrupt k w s = .ok t) : Leaves thumb s t := by
  rcases softwareInterrupt_cases h with ⟨-, rfl⟩ | ⟨-, s', h1, rfl⟩
  · exact Leaves.exception (ExecRel.refl _)
  · obtain ⟨h2, h3, h4, -⟩ := swiService_rel h1
    exact Leaves.step (h2.trans (ExecRel.advance _ _)) (by simp [h3, hw]) (by simp [h4])

theorem thumbCompute_leaves {rd : LowReg} {f : State → AluOut} {s t : State} (h : thumbCompute rd f s = .next t) :
    Leaves true s t := by
  refine runThumb_leaves (fun s t h => ?_) h
  cases h
  exact Leaves.step ((ExecRel.setCpsr _ _).trans ((ExecRel.setLo _ _ _).trans (ExecRel.advance _ _))) rfl rfl

theorem thumbCompare_leaves {f : State → AluOut} {s t : State} (h : thumbCompare f s = .next t) : Leaves true s t := by
  refine runThumb_leaves (fun s t h => ?_) h
  cases h
  exact Leaves.step ((ExecRel.setCpsr _ _).trans (ExecRel.advance _ _)) rfl rfl

theorem thumbAddress_leaves {rd : LowReg} {f : State → Word} {s t : State} (h : thumbAddress rd f s = .next t) :
    Leaves true s t := by
  refine runThumb_leaves (fun s t h => ?_) h
  cases h
  exact Leaves.step ((ExecRel.setLo _ _ _).trans (ExecRel.advance _ _)) rfl rfl

theorem branchThumb_leaves {v : Word} {s s' : State} (hr : ExecRel s s') (hs : s'.cpsr.t = s.cpsr.t) :
    Leaves true s (branchThumb v s') := by
  refine ⟨hr.trans (ExecRel.jump _ _), fun hT _ => ?_⟩
  have := pcAligned_alignTarget s' v
  simpa [alignTarget, hs, hT, branchThumb] using this

theorem thumbHi_leaves {m d : RegNum} {f : State → Word} {s t : State} (h : thumbHi m d f s = .next t) : Leaves true s t := by
  refine runThumb_leaves (fun s t h => ?_) h
  simp only [pure_eq_ok] at h
  obtain ⟨u, -, h⟩ := bind_eq_ok.mp h
  cases h
  simp only [thumbHiWrite]
  split
  · exact branchThumb_leaves (ExecRel.refl _) rfl
  · exact Leaves.step ((ExecRel.setX _ _ _).trans (ExecRel.advance _ _)) rfl rfl

theorem thumbHiCompare_leaves {m d : RegNum} {s t : State} (h : thumbHiCompare m d s = .next t) : Leaves true s t := by
  refine runThumb_leaves (fun s t h => ?_) h
  simp only [pure_eq_ok] at h
  obtain ⟨u, -, h⟩ := bind_eq_ok.mp h
  obtain ⟨u, -, h⟩ := bind_eq_ok.mp h
  cases h
  exact Leaves.step ((ExecRel.setCpsr _ _).trans (ExecRel.advance _ _)) rfl rfl

theorem thumbMultiply_leaves {rs rd : LowReg} {s t : State} (h : thumbMultiply rs rd s = .next t) : Leaves true s t := by
  refine runThumb_leaves (fun s t h => ?_) h
  simp only [pure_eq_ok] at h
  obtain ⟨u, -, h⟩ := bind_eq_ok.mp h
  cases h
  exact Leaves.step ((mulFlags_rel _ _).trans ((ExecRel.setLo _ _ _).trans (ExecRel.advance _ _))) rfl rfl

theorem thumbExchange_leaves {m : RegNum} {s t : State} (h : runThumb (fun s => exchange (s.x 4 m) s) s = .next t) :
    Leaves true s t := by
  refine runThumb_leaves (fun s t h => ?_) h
  exact Leaves.branchByT (ExecRel.setCpsr _ _) h

theorem thumbLoad_leaves {k : Transfer} {rd : LowReg} {f : State → Word} {s t : State} (h : thumbLoad k rd f s = .next t) :
    Leaves true s t := by
  refine runThumb_leaves (fun s t h => ?_) h
  simp only [pure_eq_ok] at h
  obtain ⟨⟨v, s1⟩, h1, h⟩ := bind_eq_ok.mp h
  cases h
  have hm := loadValue_rel h1
  exact Leaves.step ((ExecRel.mem hm).trans ((ExecRel.setLo _ _ _).trans (ExecRel.advance _ _))) (by simp [hm.pc])
    (by simp [hm.cpsr])

theorem thumbStore_leaves {k : Transfer} {rd : LowReg} {f : State → Word} {s t : State} (h : thumbStore k rd f s = .next t) :
    Leaves true s t := by
  refine runThumb_leaves (fun s t h => ?_) h
  simp only [pure_eq_ok] at h
  obtain ⟨s1, h1, h⟩ := bind_eq_ok.mp h
  cases h
  have hm := storeValue_rel h1
  exact Leaves.step ((ExecRel.mem hm).trans (ExecRel.advance _ _)) (by simp [hm.pc]) (by simp [hm.cpsr])

theorem push_leaves {r : Bool} {list : BitVec 8} {s t : State} (h : push r list s = .next t) : Leaves true s t := by
  refine runThumb_leaves (fun s t h => ?_) h
  simp only [pure_eq_ok] at h
  obtain ⟨u, -, h⟩ := bind_eq_ok.mp h
  obtain ⟨s1, h1, h⟩ := bind_eq_ok.mp h
  cases h
  have hm := storeWords_rel h1
  exact Leaves.step ((ExecRel.mem hm).trans ((ExecRel.setX _ _ _).trans (ExecRel.advance _ _))) (by simp [hm.pc])
    (by simp [hm.cpsr])

theorem pop_leaves {r : Bool} {list : BitVec 8} {s t : State} (h : pop r list s = .next t) : Leaves true s t := by
  refine runThumb_leaves (fun s t h => ?_) h
  simp only [pure_eq_ok] at h
  obtain ⟨u, -, h⟩ := bind_eq_ok.mp h
  obtain ⟨⟨vs, s1⟩, h1, h⟩ := bind_eq_ok.mp h
  cases h
  obtain ⟨hm, -⟩ := loadWords_rel h1
  have hr := (ExecRel.mem hm).trans ((ExecRel.writeRegs s.cpsr.m ((stackRegs r 15#4 list).zip vs) s1).trans
    (ExecRel.setX _ 13#4 (BlockMode.ia.writeBack (s.x 4 13#4) (stackRegs r 15#4 list).length)))
  split
  · exact branchThumb_leaves hr (by simp [(writeRegs_pc _ _ _).2.1, hm.cpsr])
  · exact Leaves.step (hr.trans (ExecRel.advance _ _)) (by simp [(writeRegs_pc _ _ _).1, hm.pc])
      (by simp [(writeRegs_pc _ _ _).2.1, hm.cpsr])

theorem thumbStoreMultiple_leaves {rb : LowReg} {list : BitVec 8} {s t : State}
    (h : thumbStoreMultiple rb list s = .next t) : Leaves true s t := by
  refine runThumb_leaves (fun s t h => ?_) h
  simp only [pure_eq_ok] at h
  obtain ⟨u, -, h⟩ := bind_eq_ok.mp h
  obtain ⟨u, -, h⟩ := bind_eq_ok.mp h
  obtain ⟨s1, h1, h⟩ := bind_eq_ok.mp h
  cases h
  have hm := storeWords_rel h1
  exact Leaves.step ((ExecRel.mem hm).trans ((ExecRel.setLo _ _ _).trans (ExecRel.advance _ _))) (by simp [hm.pc])
    (by simp [hm.cpsr])

theorem thumbLoadMultiple_leaves {rb : LowReg} {list : BitVec 8} {s t : State}
    (h : thumbLoadMultiple rb list s = .next t) : Leaves true s t := by
  refine runThumb_leaves (fun s t h => ?_) h
  simp only [pure_eq_ok] at h
  obtain ⟨u, -, h⟩ := bind_eq_ok.mp h
  obtain ⟨⟨vs, s1⟩, h1, h⟩ := bind_eq_ok.mp h
  cases h
  obtain ⟨hm, -⟩ := loadWords_rel h1
  exact Leaves.step ((ExecRel.mem hm).trans ((ExecRel.setLo _ _ _).trans ((ExecRel.writeRegs _ _ _).trans
    (ExecRel.advance _ _)))) (by simp [(writeRegs_pc _ _ _).1, hm.pc]) (by simp [(writeRegs_pc _ _ _).2.1, hm.cpsr])

/-- A Thumb branch relative to the pc. -/
theorem thumbRelative_leaves {s : State} (v : Word) :
    Leaves true s (s.jump (s.pc + 4 + (v <<< 1))) := by
  refine ⟨ExecRel.jump _ _, fun hT hal => ?_⟩
  rw [State.pcAligned_iff] at hal ⊢
  simp only [State.jump_cpsr, State.jump_pc, hT, if_true] at hal ⊢
  exact toNat_add_mod _ _ 2 (by decide) (toNat_add_mod _ _ 2 (by decide) hal rfl) (toNat_shl_mod _ 1 (by decide))

theorem thumbBranchIf_leaves {c : Cond} {off : BitVec 8} {s t : State} (h : thumbBranchIf c off s = .next t) :
    Leaves true s t := by
  refine runThumb_leaves (fun s t h => ?_) h
  cases h
  split
  · exact thumbRelative_leaves _
  · exact Leaves.step (ExecRel.advance _ _) rfl rfl

theorem thumbBranch_leaves {off : BitVec 11} {s t : State} (h : thumbBranch off s = .next t) : Leaves true s t := by
  refine runThumb_leaves (fun s t h => ?_) h
  cases h
  exact thumbRelative_leaves _

theorem blPrefix_leaves {off : BitVec 11} {s t : State} (h : blPrefix off s = .next t) : Leaves true s t := by
  refine runThumb_leaves (fun s t h => ?_) h
  cases h
  exact Leaves.step ((ExecRel.setX _ _ _).trans (ExecRel.advance _ _)) rfl rfl

theorem blSuffix_leaves {off : BitVec 11} {s t : State} (h : blSuffix off s = .next t) : Leaves true s t := by
  refine runThumb_leaves (fun s t h => ?_) h
  cases h
  exact branchThumb_leaves (ExecRel.setX _ _ _) rfl

/-- Every instruction leaves the parameters, the inputs and the host's queues alone, keeps the canonical forms, and leaves
an aligned pc where it started from one, in ARM state for an ARM instruction, in Thumb state for a Thumb instruction. -/
theorem runShape_leaves {sh : Shape} {s t : State} (h : runShape sh s = .next t) : Leaves sh.cond?.isNone s t := by
  cases sh with
  | dataProc => exact dataProcessing_leaves h
  | multiply => exact multiply_leaves h
  | longMultiply => exact longMultiply_leaves h
  | mrs => exact moveFromStatus_leaves h
  | msr => exact moveToStatus_leaves h
  | bx => exact branchExchange_leaves h
  | branch => exact branch_leaves h
  | swap => exact swap_leaves h
  | transfer =>
    simp only [runShape] at h
    split at h
    · exact transfer2_leaves h
    · exact transfer3_leaves h
  | block =>
    simp only [runShape] at h
    split at h
    · exact blockLoad_leaves h
    · exact blockStore_leaves h
  | undefArm => exact undefinedArm_leaves h
  | swi => exact runArm_leaves (fun s t h => softwareInterrupt_leaves rfl h) h
  | tShift => exact thumbCompute_leaves h
  | tAlu =>
    simp only [runShape] at h
    split at h
    · exact thumbCompare_leaves h
    · exact thumbCompute_leaves h
  | tMul => exact thumbMultiply_leaves h
  | tHi =>
    simp only [runShape] at h
    split at h
    · exact thumbHi_leaves h
    · exact thumbHiCompare_leaves h
    · exact thumbHi_leaves h
  | tBx => exact thumbExchange_leaves h
  | tAddress =>
    simp only [runShape] at h
    split at h <;> exact thumbAddress_leaves h
  | tAdjustSp =>
    simp only [runShape, execTAdjustSp] at h
    refine runThumb_leaves (fun s t h => ?_) h
    cases h
    exact Leaves.step ((ExecRel.setX _ _ _).trans (ExecRel.advance _ _)) rfl rfl
  | tTransfer =>
    simp only [runShape] at h
    split at h
    · exact thumbLoad_leaves h
    · exact thumbStore_leaves h
  | tPush => exact push_leaves h
  | tPop => exact pop_leaves h
  | tBlock =>
    simp only [runShape] at h
    split at h
    · exact thumbLoadMultiple_leaves h
    · exact thumbStoreMultiple_leaves h
  | tBranchIf => exact thumbBranchIf_leaves h
  | tUnd =>
    refine runThumb_leaves (fun s t h => ?_) h
    rw [undefined_eq h]
    exact Leaves.exception (ExecRel.refl _)
  | tSwi => exact runThumb_leaves (fun s t h => softwareInterrupt_leaves rfl h) h
  | tB => exact thumbBranch_leaves h
  | tBl =>
    simp only [runShape] at h
    split at h
    · exact blSuffix_leaves h
    · exact blPrefix_leaves h

/-- A Thumb instruction has no condition, an ARM one has (R410). -/
theorem shapeOf_cond_isNone (i : Instr) : (shapeOf i).cond?.isNone = i.isThumb := by
  cases i <;> rfl

theorem exec_leaves {i : Instr} {s t : State} (h : exec i s = .next t) : Leaves i.isThumb s t := by
  rw [exec_eq_runShape] at h
  rw [← shapeOf_cond_isNone]
  exact runShape_leaves h

end Sys2Proof.Machine
end

