-- ==== Sys2Proof/Laws/PerInstr.lean ====
section
/-! SUPPORT. Per-instruction facts about the syntax: an encoding has the width of its instruction (R16, R300). -/

namespace Sys2Proof.Laws.EncodedLength

/-- The bytes of an instruction are as many as its width. -/
def Statement (i : Instr) : Prop := i.bytes.length = i.width

theorem andImm (c : Cond) (f : Bool) (rn : RegNum) (rd : RegNum) (rot : BitVec 4) (imm : BitVec 8) : Statement (.andImm c f rn rd rot imm) := rfl
theorem andShiftImm (c : Cond) (f : Bool) (rn : RegNum) (rd : RegNum) (amt : BitVec 5) (sh : ShiftKind) (rm : RegNum) : Statement (.andShiftImm c f rn rd amt sh rm) := rfl
theorem andShiftReg (c : Cond) (f : Bool) (rn : RegNum) (rd : RegNum) (rs : RegNum) (sh : ShiftKind) (rm : RegNum) : Statement (.andShiftReg c f rn rd rs sh rm) := rfl
theorem eorImm (c : Cond) (f : Bool) (rn : RegNum) (rd : RegNum) (rot : BitVec 4) (imm : BitVec 8) : Statement (.eorImm c f rn rd rot imm) := rfl
theorem eorShiftImm (c : Cond) (f : Bool) (rn : RegNum) (rd : RegNum) (amt : BitVec 5) (sh : ShiftKind) (rm : RegNum) : Statement (.eorShiftImm c f rn rd amt sh rm) := rfl
theorem eorShiftReg (c : Cond) (f : Bool) (rn : RegNum) (rd : RegNum) (rs : RegNum) (sh : ShiftKind) (rm : RegNum) : Statement (.eorShiftReg c f rn rd rs sh rm) := rfl
theorem subImm (c : Cond) (f : Bool) (rn : RegNum) (rd : RegNum) (rot : BitVec 4) (imm : BitVec 8) : Statement (.subImm c f rn rd rot imm) := rfl
theorem subShiftImm (c : Cond) (f : Bool) (rn : RegNum) (rd : RegNum) (amt : BitVec 5) (sh : ShiftKind) (rm : RegNum) : Statement (.subShiftImm c f rn rd amt sh rm) := rfl
theorem subShiftReg (c : Cond) (f : Bool) (rn : RegNum) (rd : RegNum) (rs : RegNum) (sh : ShiftKind) (rm : RegNum) : Statement (.subShiftReg c f rn rd rs sh rm) := rfl
theorem rsbImm (c : Cond) (f : Bool) (rn : RegNum) (rd : RegNum) (rot : BitVec 4) (imm : BitVec 8) : Statement (.rsbImm c f rn rd rot imm) := rfl
theorem rsbShiftImm (c : Cond) (f : Bool) (rn : RegNum) (rd : RegNum) (amt : BitVec 5) (sh : ShiftKind) (rm : RegNum) : Statement (.rsbShiftImm c f rn rd amt sh rm) := rfl
theorem rsbShiftReg (c : Cond) (f : Bool) (rn : RegNum) (rd : RegNum) (rs : RegNum) (sh : ShiftKind) (rm : RegNum) : Statement (.rsbShiftReg c f rn rd rs sh rm) := rfl
theorem addImm (c : Cond) (f : Bool) (rn : RegNum) (rd : RegNum) (rot : BitVec 4) (imm : BitVec 8) : Statement (.addImm c f rn rd rot imm) := rfl
theorem addShiftImm (c : Cond) (f : Bool) (rn : RegNum) (rd : RegNum) (amt : BitVec 5) (sh : ShiftKind) (rm : RegNum) : Statement (.addShiftImm c f rn rd amt sh rm) := rfl
theorem addShiftReg (c : Cond) (f : Bool) (rn : RegNum) (rd : RegNum) (rs : RegNum) (sh : ShiftKind) (rm : RegNum) : Statement (.addShiftReg c f rn rd rs sh rm) := rfl
theorem adcImm (c : Cond) (f : Bool) (rn : RegNum) (rd : RegNum) (rot : BitVec 4) (imm : BitVec 8) : Statement (.adcImm c f rn rd rot imm) := rfl
theorem adcShiftImm (c : Cond) (f : Bool) (rn : RegNum) (rd : RegNum) (amt : BitVec 5) (sh : ShiftKind) (rm : RegNum) : Statement (.adcShiftImm c f rn rd amt sh rm) := rfl
theorem adcShiftReg (c : Cond) (f : Bool) (rn : RegNum) (rd : RegNum) (rs : RegNum) (sh : ShiftKind) (rm : RegNum) : Statement (.adcShiftReg c f rn rd rs sh rm) := rfl
theorem sbcImm (c : Cond) (f : Bool) (rn : RegNum) (rd : RegNum) (rot : BitVec 4) (imm : BitVec 8) : Statement (.sbcImm c f rn rd rot imm) := rfl
theorem sbcShiftImm (c : Cond) (f : Bool) (rn : RegNum) (rd : RegNum) (amt : BitVec 5) (sh : ShiftKind) (rm : RegNum) : Statement (.sbcShiftImm c f rn rd amt sh rm) := rfl
theorem sbcShiftReg (c : Cond) (f : Bool) (rn : RegNum) (rd : RegNum) (rs : RegNum) (sh : ShiftKind) (rm : RegNum) : Statement (.sbcShiftReg c f rn rd rs sh rm) := rfl
theorem rscImm (c : Cond) (f : Bool) (rn : RegNum) (rd : RegNum) (rot : BitVec 4) (imm : BitVec 8) : Statement (.rscImm c f rn rd rot imm) := rfl
theorem rscShiftImm (c : Cond) (f : Bool) (rn : RegNum) (rd : RegNum) (amt : BitVec 5) (sh : ShiftKind) (rm : RegNum) : Statement (.rscShiftImm c f rn rd amt sh rm) := rfl
theorem rscShiftReg (c : Cond) (f : Bool) (rn : RegNum) (rd : RegNum) (rs : RegNum) (sh : ShiftKind) (rm : RegNum) : Statement (.rscShiftReg c f rn rd rs sh rm) := rfl
theorem tstImm (c : Cond) (rn : RegNum) (rd : RegNum) (rot : BitVec 4) (imm : BitVec 8) : Statement (.tstImm c rn rd rot imm) := rfl
theorem tstShiftImm (c : Cond) (rn : RegNum) (rd : RegNum) (amt : BitVec 5) (sh : ShiftKind) (rm : RegNum) : Statement (.tstShiftImm c rn rd amt sh rm) := rfl
theorem tstShiftReg (c : Cond) (rn : RegNum) (rd : RegNum) (rs : RegNum) (sh : ShiftKind) (rm : RegNum) : Statement (.tstShiftReg c rn rd rs sh rm) := rfl
theorem teqImm (c : Cond) (rn : RegNum) (rd : RegNum) (rot : BitVec 4) (imm : BitVec 8) : Statement (.teqImm c rn rd rot imm) := rfl
theorem teqShiftImm (c : Cond) (rn : RegNum) (rd : RegNum) (amt : BitVec 5) (sh : ShiftKind) (rm : RegNum) : Statement (.teqShiftImm c rn rd amt sh rm) := rfl
theorem teqShiftReg (c : Cond) (rn : RegNum) (rd : RegNum) (rs : RegNum) (sh : ShiftKind) (rm : RegNum) : Statement (.teqShiftReg c rn rd rs sh rm) := rfl
theorem cmpImm (c : Cond) (rn : RegNum) (rd : RegNum) (rot : BitVec 4) (imm : BitVec 8) : Statement (.cmpImm c rn rd rot imm) := rfl
theorem cmpShiftImm (c : Cond) (rn : RegNum) (rd : RegNum) (amt : BitVec 5) (sh : ShiftKind) (rm : RegNum) : Statement (.cmpShiftImm c rn rd amt sh rm) := rfl
theorem cmpShiftReg (c : Cond) (rn : RegNum) (rd : RegNum) (rs : RegNum) (sh : ShiftKind) (rm : RegNum) : Statement (.cmpShiftReg c rn rd rs sh rm) := rfl
theorem cmnImm (c : Cond) (rn : RegNum) (rd : RegNum) (rot : BitVec 4) (imm : BitVec 8) : Statement (.cmnImm c rn rd rot imm) := rfl
theorem cmnShiftImm (c : Cond) (rn : RegNum) (rd : RegNum) (amt : BitVec 5) (sh : ShiftKind) (rm : RegNum) : Statement (.cmnShiftImm c rn rd amt sh rm) := rfl
theorem cmnShiftReg (c : Cond) (rn : RegNum) (rd : RegNum) (rs : RegNum) (sh : ShiftKind) (rm : RegNum) : Statement (.cmnShiftReg c rn rd rs sh rm) := rfl
theorem orrImm (c : Cond) (f : Bool) (rn : RegNum) (rd : RegNum) (rot : BitVec 4) (imm : BitVec 8) : Statement (.orrImm c f rn rd rot imm) := rfl
theorem orrShiftImm (c : Cond) (f : Bool) (rn : RegNum) (rd : RegNum) (amt : BitVec 5) (sh : ShiftKind) (rm : RegNum) : Statement (.orrShiftImm c f rn rd amt sh rm) := rfl
theorem orrShiftReg (c : Cond) (f : Bool) (rn : RegNum) (rd : RegNum) (rs : RegNum) (sh : ShiftKind) (rm : RegNum) : Statement (.orrShiftReg c f rn rd rs sh rm) := rfl
theorem movImm (c : Cond) (f : Bool) (rn : RegNum) (rd : RegNum) (rot : BitVec 4) (imm : BitVec 8) : Statement (.movImm c f rn rd rot imm) := rfl
theorem movShiftImm (c : Cond) (f : Bool) (rn : RegNum) (rd : RegNum) (amt : BitVec 5) (sh : ShiftKind) (rm : RegNum) : Statement (.movShiftImm c f rn rd amt sh rm) := rfl
theorem movShiftReg (c : Cond) (f : Bool) (rn : RegNum) (rd : RegNum) (rs : RegNum) (sh : ShiftKind) (rm : RegNum) : Statement (.movShiftReg c f rn rd rs sh rm) := rfl
theorem bicImm (c : Cond) (f : Bool) (rn : RegNum) (rd : RegNum) (rot : BitVec 4) (imm : BitVec 8) : Statement (.bicImm c f rn rd rot imm) := rfl
theorem bicShiftImm (c : Cond) (f : Bool) (rn : RegNum) (rd : RegNum) (amt : BitVec 5) (sh : ShiftKind) (rm : RegNum) : Statement (.bicShiftImm c f rn rd amt sh rm) := rfl
theorem bicShiftReg (c : Cond) (f : Bool) (rn : RegNum) (rd : RegNum) (rs : RegNum) (sh : ShiftKind) (rm : RegNum) : Statement (.bicShiftReg c f rn rd rs sh rm) := rfl
theorem mvnImm (c : Cond) (f : Bool) (rn : RegNum) (rd : RegNum) (rot : BitVec 4) (imm : BitVec 8) : Statement (.mvnImm c f rn rd rot imm) := rfl
theorem mvnShiftImm (c : Cond) (f : Bool) (rn : RegNum) (rd : RegNum) (amt : BitVec 5) (sh : ShiftKind) (rm : RegNum) : Statement (.mvnShiftImm c f rn rd amt sh rm) := rfl
theorem mvnShiftReg (c : Cond) (f : Bool) (rn : RegNum) (rd : RegNum) (rs : RegNum) (sh : ShiftKind) (rm : RegNum) : Statement (.mvnShiftReg c f rn rd rs sh rm) := rfl
theorem mrs (c : Cond) (spsr : Bool) (rd : RegNum) : Statement (.mrs c spsr rd) := rfl
theorem msrReg (c : Cond) (spsr : Bool) (mask : BitVec 4) (rm : RegNum) : Statement (.msrReg c spsr mask rm) := rfl
theorem msrImm (c : Cond) (spsr : Bool) (mask : BitVec 4) (rot : BitVec 4) (imm : BitVec 8) : Statement (.msrImm c spsr mask rot imm) := rfl
theorem bx (c : Cond) (rm : RegNum) : Statement (.bx c rm) := rfl
theorem mul (c : Cond) (f : Bool) (rd : RegNum) (rn : RegNum) (rs : RegNum) (rm : RegNum) : Statement (.mul c f rd rn rs rm) := rfl
theorem mla (c : Cond) (f : Bool) (rd : RegNum) (rn : RegNum) (rs : RegNum) (rm : RegNum) : Statement (.mla c f rd rn rs rm) := rfl
theorem umull (c : Cond) (f : Bool) (rdHi : RegNum) (rdLo : RegNum) (rs : RegNum) (rm : RegNum) : Statement (.umull c f rdHi rdLo rs rm) := rfl
theorem umlal (c : Cond) (f : Bool) (rdHi : RegNum) (rdLo : RegNum) (rs : RegNum) (rm : RegNum) : Statement (.umlal c f rdHi rdLo rs rm) := rfl
theorem smull (c : Cond) (f : Bool) (rdHi : RegNum) (rdLo : RegNum) (rs : RegNum) (rm : RegNum) : Statement (.smull c f rdHi rdLo rs rm) := rfl
theorem smlal (c : Cond) (f : Bool) (rdHi : RegNum) (rdLo : RegNum) (rs : RegNum) (rm : RegNum) : Statement (.smlal c f rdHi rdLo rs rm) := rfl
theorem swp (c : Cond) (rn : RegNum) (rd : RegNum) (rm : RegNum) : Statement (.swp c rn rd rm) := rfl
theorem swpb (c : Cond) (rn : RegNum) (rd : RegNum) (rm : RegNum) : Statement (.swpb c rn rd rm) := rfl
theorem strhPre (c : Cond) (u : Bool) (im : Bool) (w : Bool) (rn : RegNum) (rd : RegNum) (hi : BitVec 4) (lo : BitVec 4) : Statement (.strhPre c u im w rn rd hi lo) := rfl
theorem strhPost (c : Cond) (u : Bool) (im : Bool) (rn : RegNum) (rd : RegNum) (hi : BitVec 4) (lo : BitVec 4) : Statement (.strhPost c u im rn rd hi lo) := rfl
theorem ldrhPre (c : Cond) (u : Bool) (im : Bool) (w : Bool) (rn : RegNum) (rd : RegNum) (hi : BitVec 4) (lo : BitVec 4) : Statement (.ldrhPre c u im w rn rd hi lo) := rfl
theorem ldrhPost (c : Cond) (u : Bool) (im : Bool) (rn : RegNum) (rd : RegNum) (hi : BitVec 4) (lo : BitVec 4) : Statement (.ldrhPost c u im rn rd hi lo) := rfl
theorem ldrsbPre (c : Cond) (u : Bool) (im : Bool) (w : Bool) (rn : RegNum) (rd : RegNum) (hi : BitVec 4) (lo : BitVec 4) : Statement (.ldrsbPre c u im w rn rd hi lo) := rfl
theorem ldrsbPost (c : Cond) (u : Bool) (im : Bool) (rn : RegNum) (rd : RegNum) (hi : BitVec 4) (lo : BitVec 4) : Statement (.ldrsbPost c u im rn rd hi lo) := rfl
theorem ldrshPre (c : Cond) (u : Bool) (im : Bool) (w : Bool) (rn : RegNum) (rd : RegNum) (hi : BitVec 4) (lo : BitVec 4) : Statement (.ldrshPre c u im w rn rd hi lo) := rfl
theorem ldrshPost (c : Cond) (u : Bool) (im : Bool) (rn : RegNum) (rd : RegNum) (hi : BitVec 4) (lo : BitVec 4) : Statement (.ldrshPost c u im rn rd hi lo) := rfl
theorem strImmPre (c : Cond) (u : Bool) (w : Bool) (rn : RegNum) (rd : RegNum) (off : BitVec 12) : Statement (.strImmPre c u w rn rd off) := rfl
theorem strImmPost (c : Cond) (u : Bool) (rn : RegNum) (rd : RegNum) (off : BitVec 12) : Statement (.strImmPost c u rn rd off) := rfl
theorem strtImm (c : Cond) (u : Bool) (rn : RegNum) (rd : RegNum) (off : BitVec 12) : Statement (.strtImm c u rn rd off) := rfl
theorem strRegPre (c : Cond) (u : Bool) (w : Bool) (rn : RegNum) (rd : RegNum) (amt : BitVec 5) (sh : ShiftKind) (rm : RegNum) : Statement (.strRegPre c u w rn rd amt sh rm) := rfl
theorem strRegPost (c : Cond) (u : Bool) (rn : RegNum) (rd : RegNum) (amt : BitVec 5) (sh : ShiftKind) (rm : RegNum) : Statement (.strRegPost c u rn rd amt sh rm) := rfl
theorem strtReg (c : Cond) (u : Bool) (rn : RegNum) (rd : RegNum) (amt : BitVec 5) (sh : ShiftKind) (rm : RegNum) : Statement (.strtReg c u rn rd amt sh rm) := rfl
theorem ldrImmPre (c : Cond) (u : Bool) (w : Bool) (rn : RegNum) (rd : RegNum) (off : BitVec 12) : Statement (.ldrImmPre c u w rn rd off) := rfl
theorem ldrImmPost (c : Cond) (u : Bool) (rn : RegNum) (rd : RegNum) (off : BitVec 12) : Statement (.ldrImmPost c u rn rd off) := rfl
theorem ldrtImm (c : Cond) (u : Bool) (rn : RegNum) (rd : RegNum) (off : BitVec 12) : Statement (.ldrtImm c u rn rd off) := rfl
theorem ldrRegPre (c : Cond) (u : Bool) (w : Bool) (rn : RegNum) (rd : RegNum) (amt : BitVec 5) (sh : ShiftKind) (rm : RegNum) : Statement (.ldrRegPre c u w rn rd amt sh rm) := rfl
theorem ldrRegPost (c : Cond) (u : Bool) (rn : RegNum) (rd : RegNum) (amt : BitVec 5) (sh : ShiftKind) (rm : RegNum) : Statement (.ldrRegPost c u rn rd amt sh rm) := rfl
theorem ldrtReg (c : Cond) (u : Bool) (rn : RegNum) (rd : RegNum) (amt : BitVec 5) (sh : ShiftKind) (rm : RegNum) : Statement (.ldrtReg c u rn rd amt sh rm) := rfl
theorem strbImmPre (c : Cond) (u : Bool) (w : Bool) (rn : RegNum) (rd : RegNum) (off : BitVec 12) : Statement (.strbImmPre c u w rn rd off) := rfl
theorem strbImmPost (c : Cond) (u : Bool) (rn : RegNum) (rd : RegNum) (off : BitVec 12) : Statement (.strbImmPost c u rn rd off) := rfl
theorem strbtImm (c : Cond) (u : Bool) (rn : RegNum) (rd : RegNum) (off : BitVec 12) : Statement (.strbtImm c u rn rd off) := rfl
theorem strbRegPre (c : Cond) (u : Bool) (w : Bool) (rn : RegNum) (rd : RegNum) (amt : BitVec 5) (sh : ShiftKind) (rm : RegNum) : Statement (.strbRegPre c u w rn rd amt sh rm) := rfl
theorem strbRegPost (c : Cond) (u : Bool) (rn : RegNum) (rd : RegNum) (amt : BitVec 5) (sh : ShiftKind) (rm : RegNum) : Statement (.strbRegPost c u rn rd amt sh rm) := rfl
theorem strbtReg (c : Cond) (u : Bool) (rn : RegNum) (rd : RegNum) (amt : BitVec 5) (sh : ShiftKind) (rm : RegNum) : Statement (.strbtReg c u rn rd amt sh rm) := rfl
theorem ldrbImmPre (c : Cond) (u : Bool) (w : Bool) (rn : RegNum) (rd : RegNum) (off : BitVec 12) : Statement (.ldrbImmPre c u w rn rd off) := rfl
theorem ldrbImmPost (c : Cond) (u : Bool) (rn : RegNum) (rd : RegNum) (off : BitVec 12) : Statement (.ldrbImmPost c u rn rd off) := rfl
theorem ldrbtImm (c : Cond) (u : Bool) (rn : RegNum) (rd : RegNum) (off : BitVec 12) : Statement (.ldrbtImm c u rn rd off) := rfl
theorem ldrbRegPre (c : Cond) (u : Bool) (w : Bool) (rn : RegNum) (rd : RegNum) (amt : BitVec 5) (sh : ShiftKind) (rm : RegNum) : Statement (.ldrbRegPre c u w rn rd amt sh rm) := rfl
theorem ldrbRegPost (c : Cond) (u : Bool) (rn : RegNum) (rd : RegNum) (amt : BitVec 5) (sh : ShiftKind) (rm : RegNum) : Statement (.ldrbRegPost c u rn rd amt sh rm) := rfl
theorem ldrbtReg (c : Cond) (u : Bool) (rn : RegNum) (rd : RegNum) (amt : BitVec 5) (sh : ShiftKind) (rm : RegNum) : Statement (.ldrbtReg c u rn rd amt sh rm) := rfl
theorem und (c : Cond) (hi : BitVec 20) (lo : BitVec 4) : Statement (.und c hi lo) := rfl
theorem ldmia (c : Cond) (ub : Bool) (w : Bool) (rn : RegNum) (list : BitVec 16) : Statement (.ldmia c ub w rn list) := rfl
theorem stmia (c : Cond) (ub : Bool) (w : Bool) (rn : RegNum) (list : BitVec 16) : Statement (.stmia c ub w rn list) := rfl
theorem ldmib (c : Cond) (ub : Bool) (w : Bool) (rn : RegNum) (list : BitVec 16) : Statement (.ldmib c ub w rn list) := rfl
theorem stmib (c : Cond) (ub : Bool) (w : Bool) (rn : RegNum) (list : BitVec 16) : Statement (.stmib c ub w rn list) := rfl
theorem ldmda (c : Cond) (ub : Bool) (w : Bool) (rn : RegNum) (list : BitVec 16) : Statement (.ldmda c ub w rn list) := rfl
theorem stmda (c : Cond) (ub : Bool) (w : Bool) (rn : RegNum) (list : BitVec 16) : Statement (.stmda c ub w rn list) := rfl
theorem ldmdb (c : Cond) (ub : Bool) (w : Bool) (rn : RegNum) (list : BitVec 16) : Statement (.ldmdb c ub w rn list) := rfl
theorem stmdb (c : Cond) (ub : Bool) (w : Bool) (rn : RegNum) (list : BitVec 16) : Statement (.stmdb c ub w rn list) := rfl
theorem b (c : Cond) (off : BitVec 24) : Statement (.b c off) := rfl
theorem bl (c : Cond) (off : BitVec 24) : Statement (.bl c off) := rfl
theorem stc (c : Cond) (ix : BitVec 4) (rn : RegNum) (crd : BitVec 4) (cp : BitVec 4) (off : BitVec 8) : Statement (.stc c ix rn crd cp off) := rfl
theorem ldc (c : Cond) (ix : BitVec 4) (rn : RegNum) (crd : BitVec 4) (cp : BitVec 4) (off : BitVec 8) : Statement (.ldc c ix rn crd cp off) := rfl
theorem cdp (c : Cond) (op1 : BitVec 4) (crn : BitVec 4) (crd : BitVec 4) (cp : BitVec 4) (op2 : BitVec 3) (crm : BitVec 4) : Statement (.cdp c op1 crn crd cp op2 crm) := rfl
theorem mcr (c : Cond) (op1 : BitVec 3) (crn : BitVec 4) (rd : RegNum) (cp : BitVec 4) (op2 : BitVec 3) (crm : BitVec 4) : Statement (.mcr c op1 crn rd cp op2 crm) := rfl
theorem mrc (c : Cond) (op1 : BitVec 3) (crn : BitVec 4) (rd : RegNum) (cp : BitVec 4) (op2 : BitVec 3) (crm : BitVec 4) : Statement (.mrc c op1 crn rd cp op2 crm) := rfl
theorem swi (c : Cond) (comment : BitVec 24) : Statement (.swi c comment) := rfl
theorem tLslImm (off : BitVec 5) (rs : LowReg) (rd : LowReg) : Statement (.tLslImm off rs rd) := rfl
theorem tLsrImm (off : BitVec 5) (rs : LowReg) (rd : LowReg) : Statement (.tLsrImm off rs rd) := rfl
theorem tAsrImm (off : BitVec 5) (rs : LowReg) (rd : LowReg) : Statement (.tAsrImm off rs rd) := rfl
theorem tAddReg (rn : LowReg) (rs : LowReg) (rd : LowReg) : Statement (.tAddReg rn rs rd) := rfl
theorem tSubReg (rn : LowReg) (rs : LowReg) (rd : LowReg) : Statement (.tSubReg rn rs rd) := rfl
theorem tAddImm3 (imm : BitVec 3) (rs : LowReg) (rd : LowReg) : Statement (.tAddImm3 imm rs rd) := rfl
theorem tSubImm3 (imm : BitVec 3) (rs : LowReg) (rd : LowReg) : Statement (.tSubImm3 imm rs rd) := rfl
theorem tMovImm8 (rd : LowReg) (imm : BitVec 8) : Statement (.tMovImm8 rd imm) := rfl
theorem tCmpImm8 (rd : LowReg) (imm : BitVec 8) : Statement (.tCmpImm8 rd imm) := rfl
theorem tAddImm8 (rd : LowReg) (imm : BitVec 8) : Statement (.tAddImm8 rd imm) := rfl
theorem tSubImm8 (rd : LowReg) (imm : BitVec 8) : Statement (.tSubImm8 rd imm) := rfl
theorem tAnd (rs : LowReg) (rd : LowReg) : Statement (.tAnd rs rd) := rfl
theorem tEor (rs : LowReg) (rd : LowReg) : Statement (.tEor rs rd) := rfl
theorem tLslReg (rs : LowReg) (rd : LowReg) : Statement (.tLslReg rs rd) := rfl
theorem tLsrReg (rs : LowReg) (rd : LowReg) : Statement (.tLsrReg rs rd) := rfl
theorem tAsrReg (rs : LowReg) (rd : LowReg) : Statement (.tAsrReg rs rd) := rfl
theorem tAdc (rs : LowReg) (rd : LowReg) : Statement (.tAdc rs rd) := rfl
theorem tSbc (rs : LowReg) (rd : LowReg) : Statement (.tSbc rs rd) := rfl
theorem tRorReg (rs : LowReg) (rd : LowReg) : Statement (.tRorReg rs rd) := rfl
theorem tTst (rs : LowReg) (rd : LowReg) : Statement (.tTst rs rd) := rfl
theorem tNeg (rs : LowReg) (rd : LowReg) : Statement (.tNeg rs rd) := rfl
theorem tCmpReg (rs : LowReg) (rd : LowReg) : Statement (.tCmpReg rs rd) := rfl
theorem tCmn (rs : LowReg) (rd : LowReg) : Statement (.tCmn rs rd) := rfl
theorem tOrr (rs : LowReg) (rd : LowReg) : Statement (.tOrr rs rd) := rfl
theorem tMul (rs : LowReg) (rd : LowReg) : Statement (.tMul rs rd) := rfl
theorem tBic (rs : LowReg) (rd : LowReg) : Statement (.tBic rs rd) := rfl
theorem tMvn (rs : LowReg) (rd : LowReg) : Statement (.tMvn rs rd) := rfl
theorem tAddHi (m : RegNum) (d : RegNum) : Statement (.tAddHi m d) := rfl
theorem tCmpHi (m : RegNum) (d : RegNum) : Statement (.tCmpHi m d) := rfl
theorem tMovHi (m : RegNum) (d : RegNum) : Statement (.tMovHi m d) := rfl
theorem tBx (m : RegNum) (sbz : BitVec 3) : Statement (.tBx m sbz) := rfl
theorem tLdrPc (rd : LowReg) (imm : BitVec 8) : Statement (.tLdrPc rd imm) := rfl
theorem tStrReg (ro : LowReg) (rb : LowReg) (rd : LowReg) : Statement (.tStrReg ro rb rd) := rfl
theorem tStrbReg (ro : LowReg) (rb : LowReg) (rd : LowReg) : Statement (.tStrbReg ro rb rd) := rfl
theorem tLdrReg (ro : LowReg) (rb : LowReg) (rd : LowReg) : Statement (.tLdrReg ro rb rd) := rfl
theorem tLdrbReg (ro : LowReg) (rb : LowReg) (rd : LowReg) : Statement (.tLdrbReg ro rb rd) := rfl
theorem tStrhReg (ro : LowReg) (rb : LowReg) (rd : LowReg) : Statement (.tStrhReg ro rb rd) := rfl
theorem tLdsbReg (ro : LowReg) (rb : LowReg) (rd : LowReg) : Statement (.tLdsbReg ro rb rd) := rfl
theorem tLdrhReg (ro : LowReg) (rb : LowReg) (rd : LowReg) : Statement (.tLdrhReg ro rb rd) := rfl
theorem tLdshReg (ro : LowReg) (rb : LowReg) (rd : LowReg) : Statement (.tLdshReg ro rb rd) := rfl
theorem tStrOff (off : BitVec 5) (rb : LowReg) (rd : LowReg) : Statement (.tStrOff off rb rd) := rfl
theorem tLdrOff (off : BitVec 5) (rb : LowReg) (rd : LowReg) : Statement (.tLdrOff off rb rd) := rfl
theorem tStrbOff (off : BitVec 5) (rb : LowReg) (rd : LowReg) : Statement (.tStrbOff off rb rd) := rfl
theorem tLdrbOff (off : BitVec 5) (rb : LowReg) (rd : LowReg) : Statement (.tLdrbOff off rb rd) := rfl
theorem tStrhOff (off : BitVec 5) (rb : LowReg) (rd : LowReg) : Statement (.tStrhOff off rb rd) := rfl
theorem tLdrhOff (off : BitVec 5) (rb : LowReg) (rd : LowReg) : Statement (.tLdrhOff off rb rd) := rfl
theorem tStrSp (rd : LowReg) (imm : BitVec 8) : Statement (.tStrSp rd imm) := rfl
theorem tLdrSp (rd : LowReg) (imm : BitVec 8) : Statement (.tLdrSp rd imm) := rfl
theorem tAddPc (rd : LowReg) (imm : BitVec 8) : Statement (.tAddPc rd imm) := rfl
theorem tAddSp (rd : LowReg) (imm : BitVec 8) : Statement (.tAddSp rd imm) := rfl
theorem tAdjustSp (sub : Bool) (imm : BitVec 7) : Statement (.tAdjustSp sub imm) := rfl
theorem tPush (r : Bool) (list : BitVec 8) : Statement (.tPush r list) := rfl
theorem tPop (r : Bool) (list : BitVec 8) : Statement (.tPop r list) := rfl
theorem tStmia (rb : LowReg) (list : BitVec 8) : Statement (.tStmia rb list) := rfl
theorem tLdmia (rb : LowReg) (list : BitVec 8) : Statement (.tLdmia rb list) := rfl
theorem tBeq (off : BitVec 8) : Statement (.tBeq off) := rfl
theorem tBne (off : BitVec 8) : Statement (.tBne off) := rfl
theorem tBcs (off : BitVec 8) : Statement (.tBcs off) := rfl
theorem tBcc (off : BitVec 8) : Statement (.tBcc off) := rfl
theorem tBmi (off : BitVec 8) : Statement (.tBmi off) := rfl
theorem tBpl (off : BitVec 8) : Statement (.tBpl off) := rfl
theorem tBvs (off : BitVec 8) : Statement (.tBvs off) := rfl
theorem tBvc (off : BitVec 8) : Statement (.tBvc off) := rfl
theorem tBhi (off : BitVec 8) : Statement (.tBhi off) := rfl
theorem tBls (off : BitVec 8) : Statement (.tBls off) := rfl
theorem tBge (off : BitVec 8) : Statement (.tBge off) := rfl
theorem tBlt (off : BitVec 8) : Statement (.tBlt off) := rfl
theorem tBgt (off : BitVec 8) : Statement (.tBgt off) := rfl
theorem tBle (off : BitVec 8) : Statement (.tBle off) := rfl
theorem tUnd (low : BitVec 8) : Statement (.tUnd low) := rfl
theorem tSwi (value : BitVec 8) : Statement (.tSwi value) := rfl
theorem tB (off : BitVec 11) : Statement (.tB off) := rfl
theorem tBlPrefix (off : BitVec 11) : Statement (.tBlPrefix off) := rfl
theorem tBlSuffix (off : BitVec 11) : Statement (.tBlSuffix off) := rfl

end Sys2Proof.Laws.EncodedLength
end

