-- ==== Sys2Proof/Laws/Step.lean ====
section
/-! SUPPORT. What the events of the host, an interrupt entry and a fetch can do to the clauses of
the invariant. -/

namespace Sys2Proof.Machine

/-! ### The render proxy under the host's calls -/

theorem ProxyOk.record {p : Params} {x : Proxy} (h : ProxyOk p x) (y : Nat) : (x.record p y).wf p = true := by
  simp only [ScanRecord.wf, Proxy.record, Bool.and_eq_true, List.all_eq_true]
  refine ⟨⟨⟨h.regsSorted, ?_⟩, ?_⟩, ?_⟩
  · split
    · simpa using h.palette
    · rfl
  · split
    · simpa using h.oam
    · rfl
  · intro e he
    obtain ⟨k, -, rfl⟩ := List.mem_map.mp he
    exact Memory.wfZ_filter _ _ _ h.vram

theorem ProxyOk.clear {p : Params} {x : Proxy} (h : ProxyOk p x) : ProxyOk p (x.clear p) := by
  refine ⟨rfl, rfl, rfl, rfl, rfl, rfl, rfl, ?_, fun _ => rfl⟩
  simp only [Proxy.clear, Proxy.cleaned, List.all_append, Bool.and_eq_true]
  exact ⟨h.posted, rfl⟩

theorem ProxyOk.drawScanline {p : Params} {x : Proxy} (h : ProxyOk p x) (y : Nat) : ProxyOk p (x.drawScanline p y) := by
  simp only [Proxy.drawScanline]
  split
  · exact h
  · split
    · exact h
    · refine ⟨h.palette, h.vram, h.oam, rfl, rfl, rfl, ?_, h.posted, fun hs => ?_⟩
      · simp only [Proxy.cleaned, List.all_append, Bool.and_eq_true]
        exact ⟨h.queue, by simpa using ProxyOk.record h y⟩
      · exact absurd hs (by assumption)

theorem ProxyOk.startDraw {p : Params} {x : Proxy} (h : ProxyOk p x) : ProxyOk p (x.startDraw p) := by
  simp only [Proxy.startDraw]
  split
  · rename_i hs
    refine ⟨h.palette, h.vram, h.oam, h.regsSorted, h.regsVideo, h.dirtyVram, h.queue, h.posted, fun _ => h.skip ?_⟩
    simp only [Bool.and_eq_true] at hs
    exact hs.1
  · refine ⟨h.palette, h.vram, h.oam, h.regsSorted, h.regsVideo, h.dirtyVram, h.queue, ?_, fun hs => absurd hs ?_⟩
    · simp only [List.all_append, Bool.and_eq_true]
      exact ⟨h.posted, rfl⟩
    · assumption

theorem ProxyOk.finishDraw {p : Params} {x : Proxy} (h : ProxyOk p x) : ProxyOk p x.finishDraw := by
  simp only [Proxy.finishDraw]
  split
  · exact h
  · refine ⟨h.palette, h.vram, h.oam, h.regsSorted, h.regsVideo, h.dirtyVram, rfl, ?_, fun _ => rfl⟩
    simp only [List.all_append, Bool.and_eq_true]
    exact ⟨h.posted, by simpa [WorkerMsg.wf] using h.queue⟩

theorem ProxyOk.videoRegWrite {p : Params} {x : Proxy} (h : ProxyOk p x) (reg : Nat) (v : BitVec 16) :
    ProxyOk p (x.videoRegWrite p reg v) := by
  simp only [Proxy.videoRegWrite]
  split
  · refine ⟨h.palette, h.vram, h.oam, Assoc.sorted_set _ _ _ h.regsSorted, ?_, h.dirtyVram, h.queue, h.posted, h.skip⟩
    rw [List.all_eq_true]
    intro e he
    rcases Assoc.mem_set _ _ _ e he with rfl | he
    · assumption
    · exact List.all_eq_true.mp h.regsVideo e he
  · exact h

theorem ProxyOk.replace {p : Params} {x y : Proxy} {pal vr oa : Image} (h : ProxyOk p x)
    (hw : pal.wf = true ∧ vr.wf = true ∧ oa.wf = true) (hs : x.replace p pal vr oa = .ok y) : ProxyOk p y := by
  obtain ⟨w1, w2, w3⟩ := hw
  simp only [Proxy.replace] at hs
  split at hs
  · cases hs
  · split at hs
    · cases hs
    · split at hs
      · cases hs
      · rename_i h1 h2 h3
        simp only [ne_eq, Decidable.not_not] at h1 h2 h3
        cases hs
        refine ⟨?_, ?_, ?_, h.regsSorted, h.regsVideo, rising_range _, h.queue, h.posted, h.skip⟩
        · rw [← h1]
          exact w1
        · rw [← h2]
          exact w2
        · rw [← h3]
          exact w3

theorem ProxyOk.workerReply {p : Params} {x : Proxy} (h : ProxyOk p x) (k : Nat) : ProxyOk p (x.workerReply k) :=
  ⟨h.palette, h.vram, h.oam, h.regsSorted, h.regsVideo, h.dirtyVram, h.queue, h.posted, h.skip⟩

/-! ### Events of the host -/

theorem DataInv.setProxy {s : State} (h : DataInv s) (x : Proxy) (hx : ProxyOk s.params x) :
    DataInv { s with proxy := x } := ⟨h.sizes, h.mem, h.save, Proxy.wf_iff.mpr hx⟩

theorem DataInv.ok {s : State} (h : DataInv s) : ProxyOk s.params s.proxy := Proxy.wf_iff.mp h.proxy

theorem resetCpu_data {s : State} (h : DataInv s) : DataInv (resetCpu s) := by
  simp only [resetCpu]
  split <;> exact h.congr rfl rfl rfl rfl

theorem resetCpu_fields (s : State) : (resetCpu s).params = s.params ∧ (resetCpu s).schedule = s.schedule ∧
    (resetCpu s).pcAligned = true := by
  simp only [resetCpu]
  split <;> exact ⟨rfl, rfl, by simp [State.pcAligned]⟩

/-- `State.reset` is the power-on with R12's defaults. -/
theorem State.powerOn_resetParams : State.powerOn Config.resetParams = State.reset := rfl

theorem State.powerOn_fields (p : Params) : (State.powerOn p).params = p ∧ (State.powerOn p).mem = [] ∧
    (State.powerOn p).save = Save.powerOn p.initialImage ∧ (State.powerOn p).proxy = Proxy.constructed ∧
    (State.powerOn p).schedule = [] ∧ (State.powerOn p).pcAligned = true := by
  simp only [State.powerOn, resetCpu]
  split <;> exact ⟨rfl, rfl, rfl, rfl, rfl, by simp [State.pcAligned]⟩

theorem resetBlock_data {s : State} (h : DataInv s) : DataInv (resetBlock s) := by
  have hp := (resetCpu_fields s).1
  have h' := resetCpu_data h
  refine ⟨h'.sizes, h'.mem, ?_, Proxy.wf_iff.mpr ?_⟩
  · show Save.wf (resetCpu s).params _ = true
    rw [hp]
    exact Save.wf_resetUnit h.save
  · show ProxyOk (resetCpu s).params _
    rw [hp]
    exact ProxyOk.clear h.ok

/-- What an event can do: keep the canonical forms, leave the events still to happen, and leave the pc aligned. -/
theorem hostStep_keeps {e : HostEvent} {s t : State} (he : e.wf = true) (hd : DataInv s) (hp : s.pcAligned = true)
    (h : hostStep e s = .ok t) : DataInv t ∧ t.pcAligned = true ∧ t.schedule = s.schedule := by
  cases e with
  | reset =>
    cases h
    exact ⟨resetBlock_data hd, (resetCpu_fields s).2.2, (resetCpu_fields s).2.1⟩
  | irq level =>
    cases h
    exact ⟨hd.congr rfl rfl rfl rfl, hp, rfl⟩
  | dma3 count enable =>
    cases h
    exact ⟨hd.congr rfl rfl rfl rfl, hp, rfl⟩
  | dmaLoad16 a =>
    obtain ⟨⟨v, s1⟩, h1, h⟩ := bind_eq_ok.mp h
    cases h
    have hm := busLoad_rel h1
    refine ⟨(hm.inv hd).congr rfl rfl rfl rfl, ?_, hm.fields.2.2.2.2.2.2.2.2.2.2.2.1⟩
    have : (s1.emit (.dmaRead v)).pcAligned = s.pcAligned := by
      simp only [State.pcAligned, State.emit_pc, State.emit_cpsr, hm.pc, hm.cpsr]
    rw [this, hp]
  | dmaStore16 a v =>
    have hm := (busStore_rel h).1
    refine ⟨hm.inv hd, ?_, hm.fields.2.2.2.2.2.2.2.2.2.2.2.1⟩
    simp only [State.pcAligned, hm.pc, hm.cpsr] at hp ⊢
    exact hp
  | videoRegWrite reg v =>
    cases h
    exact ⟨hd.setProxy _ (ProxyOk.videoRegWrite hd.ok reg v), hp, rfl⟩
  | startDraw =>
    cases h
    exact ⟨hd.setProxy _ (ProxyOk.startDraw hd.ok), hp, rfl⟩
  | drawScanline y =>
    cases h
    exact ⟨hd.setProxy _ (ProxyOk.drawScanline hd.ok y), hp, rfl⟩
  | finishDraw =>
    cases h
    exact ⟨hd.setProxy _ (ProxyOk.finishDraw hd.ok), hp, rfl⟩
  | clear =>
    cases h
    exact ⟨hd.setProxy _ (ProxyOk.clear hd.ok), hp, rfl⟩
  | replace pal vr oa =>
    obtain ⟨x, hx, h⟩ := bind_eq_ok.mp h
    cases h
    simp only [HostEvent.wf, Bool.and_eq_true] at he
    exact ⟨hd.setProxy _ (ProxyOk.replace hd.ok ⟨he.1.1, he.1.2, he.2⟩ (stopAt_eq_ok.mp hx)), hp, rfl⟩
  | workerReply k =>
    cases h
    simp only [workerReply]
    split
    · exact ⟨hd, hp, rfl⟩
    · exact ⟨(hd.setProxy _ (ProxyOk.workerReply hd.ok k)).congr rfl rfl rfl rfl, hp, rfl⟩
  | flush =>
    cases h
    simp only [flushSave]
    split
    · refine ⟨⟨hd.sizes, hd.mem, ?_, hd.proxy⟩, hp, rfl⟩
      exact Save.wf_iff.mpr (Save.wf_iff.mp hd.save)
    · exact ⟨hd, hp, rfl⟩
  | freeze =>
    cases h
    exact ⟨hd.congr rfl rfl rfl rfl, hp, rfl⟩
  | defrost snap =>
    simp only [hostStep, defrost, pure_eq_ok] at h
    obtain ⟨x, hx, h⟩ := bind_eq_ok.mp h
    cases h
    simp only [HostEvent.wf, Bool.and_eq_true] at he
    obtain ⟨⟨⟨e1, e2⟩, e3⟩, e4⟩ := he
    exact ⟨⟨hd.sizes, hd.mem, hd.save, Proxy.wf_iff.mpr (ProxyOk.replace hd.ok ⟨e1, e2, e3⟩ (stopAt_eq_ok.mp hx))⟩, e4, rfl⟩

/-! ### Interrupts and fetching -/

theorem enterInterrupt_keeps {e : Exc} {s : State} (h : DataInv s) :
    DataInv (enterInterrupt e s) ∧ (enterInterrupt e s).pcAligned = true := by
  refine ⟨h.congr rfl rfl rfl rfl, ?_⟩
  exact pcAligned_takeException _ _ _

theorem chooseRaced_eq {now : Word} {olds : List (Option Word)} {s t : State} {v : Word}
    (h : chooseRaced now olds s = .ok (v, t)) : (v = now ∨ some v ∈ olds) ∧ t = { s with draws := t.draws } := by
  simp only [chooseRaced, draw] at h
  split at h
  · cases h
    exact ⟨.inl rfl, rfl⟩
  · split at h
    · rename_i w hw
      cases h
      refine ⟨?_, rfl⟩
      have := List.mem_of_getElem? (Option.join_eq_some_iff.mp hw)
      rcases List.mem_cons.mp this with h1 | h1
      · exact .inl (Option.some.inj h1)
      · exact .inr h1
    · cases h

/-- What a fetch can do: read the code word at the pc, with the side effects of a load and a draw at a raced address. -/
theorem fetch_rel {s t : State} {k : Code} (h : fetch s = .ok (k, t)) :
    MemRel s t ∧ ∃ w, k = if s.cpsr.t then .thumb (w.setWidth 16) else .arm w := by
  simp only [fetch, pure_eq_ok] at h
  obtain ⟨⟨v, s1⟩, h1, h⟩ := bind_eq_ok.mp h
  obtain ⟨⟨w, s2⟩, h2, h⟩ := bind_eq_ok.mp h
  cases h
  obtain ⟨-, h3⟩ := chooseRaced_eq h2
  refine ⟨(busLoad_rel h1).trans ⟨?_, fun hd => ?_⟩, w, rfl⟩
  · simp only
    rw [h3]
  · simp only
    rw [h3]
    exact hd.congr rfl rfl rfl rfl

/-- What a code word can do: an instruction of its instruction set, or the undefined exception. -/
theorem runCode_leaves {k : Code} {s t : State} (h : runCode k s = .next t) :
    Leaves (match k with | .arm _ => false | .thumb _ => true) s t := by
  simp only [runCode] at h
  split at h
  · rename_i i hi
    have hl := exec_leaves h
    cases k with
    | arm w =>
      have := decodeArm_isThumb hi
      rw [this] at hl
      exact hl
    | thumb w =>
      have := decodeThumb_isThumb hi
      rw [this] at hl
      exact hl
  · cases k with
    | arm w => exact undefinedArm_leaves h
    | thumb w =>
      refine runThumb_leaves (fun s t h => ?_) h
      rw [undefined_eq h]
      exact Leaves.exception (ExecRel.refl _)

end Sys2Proof.Machine
end

