-- ==== Sys2Proof/Tests/Slice0.lean ====
section
/-! SUPPORT. The model's own tests: ill-formed terms, every row's decoding from a word written from the spec's encoding tables,
the spec's worked examples (the `Example:` lines of 40 to 47 and the vectors of 95), and for every statement with hypotheses a
state and operands that meet them. Expected values come from the spec or are worked by hand from its rules. -/

set_option Elab.async false

open Sys2Proof Sys2Proof.Machine

namespace Sys2Proof.Tests

/-! ### Small states and what is looked at -/

/-- The directBoot state (R151), the start state of 95: System mode, ARM state, flags 0, A = 0x08000000; with the ARM7TDMI
alternatives and the Undefined trap. -/
def boot : State := State.powerOn { Config.chipParams with bootProfile := .directBoot }

/-- The same with R12's defaults: no ARM7TDMI alternatives, undefined instructions fault. -/
def strict : State := State.powerOn { Config.resetParams with bootProfile := .directBoot }

/-- The directBoot state in Thumb state at an address. -/
def thumbAt (a : Word) : State := { boot with cpsr := { boot.cpsr with t := true }, pc := a }

/-- A state with some registers of its mode set. -/
def setRegs (s : State) (l : List (RegNum × Word)) : State := l.foldl (fun s p => s.setX p.1 p.2) s

/-- A state with its flags set. -/
def setNzcv (s : State) (n z c v : Bool) : State := { s with cpsr := { s.cpsr with n := n, z := z, c := c, v := v } }

/-- A state in another mode. -/
def inMode (m : Mode) (s : State) : State := { s with cpsr := { s.cpsr with m := m } }

/-- A state with bytes in work RAM from 0x03000000 on. -/
def withRam (s : State) (l : List Byte) : State :=
  { s with mem := (List.range l.length).map (fun k => (0x03000000 + k, l.getD k 0#8)) }

/-- The bytes 11 22 33 44 55 66 77 88 at 0x03000000 (95 section 3.7). -/
def ram : State := withRam boot [0x11, 0x22, 0x33, 0x44, 0x55, 0x66, 0x77, 0x88]

def runA (w : Word) (s : State) : Result := runCode (.arm w) s

def runT (h : Half) (s : State) : Result := runCode (.thumb h) s

/-- The registers named, after a next state. -/
def regsOf (r : Result) (l : List RegNum) : Option (List Word) :=
  match r with
  | .next t => some (l.map (t.bankReg t.cpsr.m))
  | _ => none

/-- N, Z, C and V after a next state. -/
def nzcv (r : Result) : Option (Bool × Bool × Bool × Bool) :=
  match r with
  | .next t => some (t.cpsr.n, t.cpsr.z, t.cpsr.c, t.cpsr.v)
  | _ => none

/-- N and Z after a next state. -/
def nz (r : Result) : Option (Bool × Bool) :=
  match r with
  | .next t => some (t.cpsr.n, t.cpsr.z)
  | _ => none

/-- The next address and the CPSR word after a next state. -/
def pcCpsr (r : Result) : Option (Word × Word) :=
  match r with
  | .next t => some (t.pc, t.cpsr.pack)
  | _ => none

/-- The bytes at an address after a next state. -/
def bytesOf (r : Result) (a : Nat) (n : Nat) : Option (List (Option Byte)) :=
  match r with
  | .next t => some ((List.range n).map (fun k => t.byteAt (BitVec.ofNat 32 (a + k))))
  | _ => none

/-- The reason of a fault. -/
def faultOf : Result → Option FaultReason
  | .fault (.stop r _) => some r
  | _ => none

/-! ### Every row from a word written from the encoding tables (30 R302, R303, R340) -/

theorem test_decode_arm1 :
    decodeArm 0xA20C1230#32 = some (.andImm .ge false 12#4 1#4 2#4 48#8) ∧
    decodeArm 0xB00612ED#32 = some (.andShiftImm .lt false 6#4 1#4 5#5 .ror 13#4) ∧
    decodeArm 0x2002D117#32 = some (.andShiftReg .cs false 2#4 13#4 1#4 .lsl 7#4) ∧
    decodeArm 0x12317144#32 = some (.eorImm .ne true 1#4 7#4 1#4 68#8) ∧
    decodeArm 0x903439A3#32 = some (.eorShiftImm .ls true 4#4 3#4 19#5 .lsr 3#4) ∧
    decodeArm 0x6033213F#32 = some (.eorShiftReg .vs true 3#4 2#4 1#4 .lsr 15#4) ∧
    decodeArm 0xD25EEB99#32 = some (.subImm .le true 14#4 14#4 11#4 153#8) ∧
    decodeArm 0x704729EA#32 = some (.subShiftImm .vc false 7#4 2#4 19#5 .ror 10#4) ∧
    decodeArm 0xE0523D3A#32 = some (.subShiftReg .al true 2#4 3#4 13#4 .lsr 10#4) ∧
    decodeArm 0x427D12A0#32 = some (.rsbImm .mi true 13#4 1#4 2#4 160#8) ∧
    decodeArm 0xA07FE208#32 = some (.rsbShiftImm .ge true 15#4 14#4 4#5 .lsl 8#4) ∧
    decodeArm 0xF0619E5C#32 = some (.rsbShiftReg .nv false 1#4 9#4 14#4 .asr 12#4) ∧
    decodeArm 0xB28EB53B#32 = some (.addImm .lt false 14#4 11#4 5#4 59#8) ∧
    decodeArm 0xF086942C#32 = some (.addShiftImm .nv false 6#4 9#4 8#5 .lsr 12#4) ∧
    decodeArm 0xC0925E78#32 = some (.addShiftReg .gt true 2#4 5#4 14#4 .ror 8#4) ∧
    decodeArm 0x42B8DBC2#32 = some (.adcImm .mi true 8#4 13#4 11#4 194#8) := by decide

theorem test_decode_arm2 :
    decodeArm 0x70A254A7#32 = some (.adcShiftImm .vc false 2#4 5#4 9#5 .lsr 7#4) ∧
    decodeArm 0x00B58914#32 = some (.adcShiftReg .eq true 5#4 8#4 9#4 .lsl 4#4) ∧
    decodeArm 0xD2DA41E9#32 = some (.sbcImm .le true 10#4 4#4 1#4 233#8) ∧
    decodeArm 0xC0DCC36C#32 = some (.sbcShiftImm .gt true 12#4 12#4 6#5 .ror 12#4) ∧
    decodeArm 0x10C26E33#32 = some (.sbcShiftReg .ne false 2#4 6#4 14#4 .lsr 3#4) ∧
    decodeArm 0xA2E30433#32 = some (.rscImm .ge false 3#4 0#4 4#4 51#8) ∧
    decodeArm 0xB0E26C28#32 = some (.rscShiftImm .lt false 2#4 6#4 24#5 .lsr 8#4) ∧
    decodeArm 0xB0FF337E#32 = some (.rscShiftReg .lt true 15#4 3#4 3#4 .ror 14#4) ∧
    decodeArm 0xF31F9249#32 = some (.tstImm .nv 15#4 9#4 2#4 73#8) ∧
    decodeArm 0x311A8F20#32 = some (.tstShiftImm .cc 10#4 8#4 30#5 .lsr 0#4) ∧
    decodeArm 0x611B4052#32 = some (.tstShiftReg .vs 11#4 4#4 0#4 .asr 2#4) ∧
    decodeArm 0x833B5B72#32 = some (.teqImm .hi 11#4 5#4 11#4 114#8) ∧
    decodeArm 0xA13767E7#32 = some (.teqShiftImm .ge 7#4 6#4 15#5 .ror 7#4) ∧
    decodeArm 0x613FB018#32 = some (.teqShiftReg .vs 15#4 11#4 0#4 .lsl 8#4) ∧
    decodeArm 0xF3586BE4#32 = some (.cmpImm .nv 8#4 6#4 11#4 228#8) ∧
    decodeArm 0xB15B2707#32 = some (.cmpShiftImm .lt 11#4 2#4 14#5 .lsl 7#4) := by decide

theorem test_decode_arm3 :
    decodeArm 0xF156A670#32 = some (.cmpShiftReg .nv 6#4 10#4 6#4 .ror 0#4) ∧
    decodeArm 0xF37B23C6#32 = some (.cmnImm .nv 11#4 2#4 3#4 198#8) ∧
    decodeArm 0x617F5DC2#32 = some (.cmnShiftImm .vs 15#4 5#4 27#5 .asr 2#4) ∧
    decodeArm 0xC17EC235#32 = some (.cmnShiftReg .gt 14#4 12#4 2#4 .lsr 5#4) ∧
    decodeArm 0x4384E4F2#32 = some (.orrImm .mi false 4#4 14#4 4#4 242#8) ∧
    decodeArm 0xB1840004#32 = some (.orrShiftImm .lt false 4#4 0#4 0#5 .lsl 4#4) ∧
    decodeArm 0xD1860839#32 = some (.orrShiftReg .le false 6#4 0#4 8#4 .lsr 9#4) ∧
    decodeArm 0x73B8D41F#32 = some (.movImm .vc true 8#4 13#4 4#4 31#8) ∧
    decodeArm 0xB1BD448E#32 = some (.movShiftImm .lt true 13#4 4#4 9#5 .lsl 14#4) ∧
    decodeArm 0x51A45473#32 = some (.movShiftReg .pl false 4#4 5#4 4#4 .ror 3#4) ∧
    decodeArm 0x13DF317F#32 = some (.bicImm .ne true 15#4 3#4 1#4 127#8) ∧
    decodeArm 0x61D13E02#32 = some (.bicShiftImm .vs true 1#4 3#4 28#5 .lsl 2#4) ∧
    decodeArm 0xE1D68E77#32 = some (.bicShiftReg .al true 6#4 8#4 14#4 .ror 7#4) ∧
    decodeArm 0x83EE4D3E#32 = some (.mvnImm .hi false 14#4 4#4 13#4 62#8) ∧
    decodeArm 0xC1FA27E2#32 = some (.mvnShiftImm .gt true 10#4 2#4 15#5 .ror 2#4) ∧
    decodeArm 0x61F34B38#32 = some (.mvnShiftReg .vs true 3#4 4#4 11#4 .lsr 8#4) := by decide

theorem test_decode_arm4 :
    decodeArm 0x414F7000#32 = some (.mrs .mi true 7#4) ∧
    decodeArm 0x316FF005#32 = some (.msrReg .cc true 15#4 5#4) ∧
    decodeArm 0x732DFCAD#32 = some (.msrImm .vc false 13#4 12#4 173#8) ∧
    decodeArm 0xD12FFF16#32 = some (.bx .le 6#4) ∧
    decodeArm 0xB012B09A#32 = some (.mul .lt true 2#4 11#4 0#4 10#4) ∧
    decodeArm 0xE030CA99#32 = some (.mla .al true 0#4 12#4 10#4 9#4) ∧
    decodeArm 0x20873298#32 = some (.umull .cs false 7#4 3#4 2#4 8#4) ∧
    decodeArm 0x80A5849D#32 = some (.umlal .hi false 5#4 8#4 4#4 13#4) ∧
    decodeArm 0x80D4FA92#32 = some (.smull .hi true 4#4 15#4 10#4 2#4) ∧
    decodeArm 0x80E5D298#32 = some (.smlal .hi false 5#4 13#4 2#4 8#4) ∧
    decodeArm 0x01028092#32 = some (.swp .eq 2#4 8#4 2#4) ∧
    decodeArm 0x71428093#32 = some (.swpb .vc 2#4 8#4 3#4) ∧
    decodeArm 0xE16841B7#32 = some (.strhPre .al false true true 8#4 4#4 1#4 7#4) ∧
    decodeArm 0x304156B9#32 = some (.strhPost .cc false true 1#4 5#4 6#4 9#4) ∧
    decodeArm 0x91758BB0#32 = some (.ldrhPre .ls false true true 5#4 8#4 11#4 0#4) ∧
    decodeArm 0x80106FB7#32 = some (.ldrhPost .hi false false 0#4 6#4 15#4 7#4) := by decide

theorem test_decode_arm5 :
    decodeArm 0xE17C96D7#32 = some (.ldrsbPre .al false true true 12#4 9#4 6#4 7#4) ∧
    decodeArm 0xA01CB1D4#32 = some (.ldrsbPost .ge false false 12#4 11#4 1#4 4#4) ∧
    decodeArm 0x017512FC#32 = some (.ldrshPre .eq false true true 5#4 1#4 2#4 12#4) ∧
    decodeArm 0x9051E5F5#32 = some (.ldrshPost .ls false true 1#4 14#4 5#4 5#4) ∧
    decodeArm 0x8588BA86#32 = some (.strImmPre .hi true false 8#4 11#4 2694#12) ∧
    decodeArm 0xA40196F8#32 = some (.strImmPost .ge false 1#4 9#4 1784#12) ∧
    decodeArm 0xB420AC36#32 = some (.strtImm .lt false 0#4 10#4 3126#12) ∧
    decodeArm 0x27A67008#32 = some (.strRegPre .cs true true 6#4 7#4 0#5 .lsl 8#4) ∧
    decodeArm 0x260C1C89#32 = some (.strRegPost .cs false 12#4 1#4 25#5 .lsl 9#4) ∧
    decodeArm 0x96224C4F#32 = some (.strtReg .ls false 2#4 4#4 24#5 .asr 15#4) ∧
    decodeArm 0x4591D475#32 = some (.ldrImmPre .mi true false 1#4 13#4 1141#12) ∧
    decodeArm 0x04120156#32 = some (.ldrImmPost .eq false 2#4 0#4 342#12) ∧
    decodeArm 0x44B3CE71#32 = some (.ldrtImm .mi true 3#4 12#4 3697#12) ∧
    decodeArm 0x171F8062#32 = some (.ldrRegPre .ne false false 15#4 8#4 0#5 .ror 2#4) ∧
    decodeArm 0x261F8247#32 = some (.ldrRegPost .cs false 15#4 8#4 4#5 .asr 7#4) ∧
    decodeArm 0x663EFC0F#32 = some (.ldrtReg .vs false 14#4 15#4 24#5 .lsl 15#4) := by decide

theorem test_decode_arm6 :
    decodeArm 0x95424A9D#32 = some (.strbImmPre .ls false false 2#4 4#4 2717#12) ∧
    decodeArm 0x84C40F6F#32 = some (.strbImmPost .hi true 4#4 0#4 3951#12) ∧
    decodeArm 0x14E836F7#32 = some (.strbtImm .ne true 8#4 3#4 1783#12) ∧
    decodeArm 0xF7EEEE86#32 = some (.strbRegPre .nv true true 14#4 14#4 29#5 .lsl 6#4) ∧
    decodeArm 0x964F0962#32 = some (.strbRegPost .ls false 15#4 0#4 18#5 .ror 2#4) ∧
    decodeArm 0xE6EC6682#32 = some (.strbtReg .al true 12#4 6#4 13#5 .lsl 2#4) ∧
    decodeArm 0x45F4839B#32 = some (.ldrbImmPre .mi true true 4#4 8#4 923#12) ∧
    decodeArm 0xB45FFC9C#32 = some (.ldrbImmPost .lt false 15#4 15#4 3228#12) ∧
    decodeArm 0x0470FE6C#32 = some (.ldrbtImm .eq false 0#4 15#4 3692#12) ∧
    decodeArm 0xC7DDBC43#32 = some (.ldrbRegPre .gt true false 13#4 11#4 24#5 .asr 3#4) ∧
    decodeArm 0xA65AAC86#32 = some (.ldrbRegPost .ge false 10#4 10#4 25#5 .lsl 6#4) ∧
    decodeArm 0x06F8B26C#32 = some (.ldrbtReg .eq true 8#4 11#4 4#5 .ror 12#4) ∧
    decodeArm 0x27715DDD#32 = some (.und .cs 756462#20 13#4) ∧
    decodeArm 0x88B31A6D#32 = some (.ldmia .hi false true 3#4 6765#16) ∧
    decodeArm 0x9888DF5A#32 = some (.stmia .ls false false 8#4 57178#16) ∧
    decodeArm 0xA9BD0EDA#32 = some (.ldmib .ge false true 13#4 3802#16) := by decide

theorem test_decode_arm7 :
    decodeArm 0xC981D25F#32 = some (.stmib .gt false false 1#4 53855#16) ∧
    decodeArm 0xE83F1913#32 = some (.ldmda .al false true 15#4 6419#16) ∧
    decodeArm 0x482DAFF4#32 = some (.stmda .mi false true 13#4 45044#16) ∧
    decodeArm 0x9978CFFA#32 = some (.ldmdb .ls true true 8#4 53242#16) ∧
    decodeArm 0x796C3D4E#32 = some (.stmdb .vc true true 12#4 15694#16) ∧
    decodeArm 0x5A52C4B3#32 = some (.b .pl 5424307#24) ∧
    decodeArm 0x2B6A6E44#32 = some (.bl .cs 6975044#24) ∧
    decodeArm 0xFCEEAEDA#32 = some (.stc .nv 7#4 14#4 10#4 14#4 218#8) ∧
    decodeArm 0x4CD725AF#32 = some (.ldc .mi 6#4 7#4 2#4 5#4 175#8) ∧
    decodeArm 0x2EA7B860#32 = some (.cdp .cs 10#4 7#4 11#4 8#4 3#3 0#4) ∧
    decodeArm 0xDECD6C9A#32 = some (.mcr .le 6#3 13#4 6#4 12#4 4#3 10#4) ∧
    decodeArm 0x1EF8B472#32 = some (.mrc .ne 7#3 8#4 11#4 4#4 3#3 2#4) ∧
    decodeArm 0x8F7F3551#32 = some (.swi .hi 8336721#24) := by decide

theorem test_decode_thumb1 :
    decodeThumb 0x0637#16 = some (.tLslImm 24#5 6#3 7#3) ∧
    decodeThumb 0x0EE0#16 = some (.tLsrImm 27#5 4#3 0#3) ∧
    decodeThumb 0x1206#16 = some (.tAsrImm 8#5 0#3 6#3) ∧
    decodeThumb 0x19F8#16 = some (.tAddReg 7#3 7#3 0#3) ∧
    decodeThumb 0x1A77#16 = some (.tSubReg 1#3 6#3 7#3) ∧
    decodeThumb 0x1DD9#16 = some (.tAddImm3 7#3 3#3 1#3) ∧
    decodeThumb 0x1ED2#16 = some (.tSubImm3 3#3 2#3 2#3) ∧
    decodeThumb 0x21EA#16 = some (.tMovImm8 1#3 234#8) ∧
    decodeThumb 0x2914#16 = some (.tCmpImm8 1#3 20#8) ∧
    decodeThumb 0x3040#16 = some (.tAddImm8 0#3 64#8) ∧
    decodeThumb 0x3B13#16 = some (.tSubImm8 3#3 19#8) ∧
    decodeThumb 0x4022#16 = some (.tAnd 4#3 2#3) ∧
    decodeThumb 0x4066#16 = some (.tEor 4#3 6#3) ∧
    decodeThumb 0x4089#16 = some (.tLslReg 1#3 1#3) ∧
    decodeThumb 0x40CC#16 = some (.tLsrReg 1#3 4#3) ∧
    decodeThumb 0x411E#16 = some (.tAsrReg 3#3 6#3) := by decide

theorem test_decode_thumb2 :
    decodeThumb 0x4163#16 = some (.tAdc 4#3 3#3) ∧
    decodeThumb 0x4180#16 = some (.tSbc 0#3 0#3) ∧
    decodeThumb 0x41E7#16 = some (.tRorReg 4#3 7#3) ∧
    decodeThumb 0x4225#16 = some (.tTst 4#3 5#3) ∧
    decodeThumb 0x425F#16 = some (.tNeg 3#3 7#3) ∧
    decodeThumb 0x429B#16 = some (.tCmpReg 3#3 3#3) ∧
    decodeThumb 0x42C6#16 = some (.tCmn 0#3 6#3) ∧
    decodeThumb 0x4320#16 = some (.tOrr 4#3 0#3) ∧
    decodeThumb 0x4343#16 = some (.tMul 0#3 3#3) ∧
    decodeThumb 0x43BE#16 = some (.tBic 7#3 6#3) ∧
    decodeThumb 0x43CC#16 = some (.tMvn 1#3 4#3) ∧
    decodeThumb 0x44BD#16 = some (.tAddHi 7#4 13#4) ∧
    decodeThumb 0x455F#16 = some (.tCmpHi 11#4 7#4) ∧
    decodeThumb 0x4679#16 = some (.tMovHi 15#4 1#4) ∧
    decodeThumb 0x4750#16 = some (.tBx 10#4 0#3) ∧
    decodeThumb 0x4EB9#16 = some (.tLdrPc 6#3 185#8) := by decide

theorem test_decode_thumb3 :
    decodeThumb 0x5198#16 = some (.tStrReg 6#3 3#3 0#3) ∧
    decodeThumb 0x550B#16 = some (.tStrbReg 4#3 1#3 3#3) ∧
    decodeThumb 0x59DC#16 = some (.tLdrReg 7#3 3#3 4#3) ∧
    decodeThumb 0x5CDF#16 = some (.tLdrbReg 3#3 3#3 7#3) ∧
    decodeThumb 0x52E4#16 = some (.tStrhReg 3#3 4#3 4#3) ∧
    decodeThumb 0x567A#16 = some (.tLdsbReg 1#3 7#3 2#3) ∧
    decodeThumb 0x5AFE#16 = some (.tLdrhReg 3#3 7#3 6#3) ∧
    decodeThumb 0x5E16#16 = some (.tLdshReg 0#3 2#3 6#3) ∧
    decodeThumb 0x60D8#16 = some (.tStrOff 3#5 3#3 0#3) ∧
    decodeThumb 0x6A70#16 = some (.tLdrOff 9#5 6#3 0#3) ∧
    decodeThumb 0x70D6#16 = some (.tStrbOff 3#5 2#3 6#3) ∧
    decodeThumb 0x7F29#16 = some (.tLdrbOff 28#5 5#3 1#3) ∧
    decodeThumb 0x8155#16 = some (.tStrhOff 5#5 2#3 5#3) ∧
    decodeThumb 0x8B17#16 = some (.tLdrhOff 12#5 2#3 7#3) ∧
    decodeThumb 0x909F#16 = some (.tStrSp 0#3 159#8) ∧
    decodeThumb 0x9EBF#16 = some (.tLdrSp 6#3 191#8) := by decide

theorem test_decode_thumb4 :
    decodeThumb 0xA5E2#16 = some (.tAddPc 5#3 226#8) ∧
    decodeThumb 0xAA37#16 = some (.tAddSp 2#3 55#8) ∧
    decodeThumb 0xB014#16 = some (.tAdjustSp false 20#7) ∧
    decodeThumb 0xB529#16 = some (.tPush true 41#8) ∧
    decodeThumb 0xBDD7#16 = some (.tPop true 215#8) ∧
    decodeThumb 0xC16A#16 = some (.tStmia 1#3 106#8) ∧
    decodeThumb 0xCEB6#16 = some (.tLdmia 6#3 182#8) ∧
    decodeThumb 0xD09E#16 = some (.tBeq 158#8) ∧
    decodeThumb 0xD1DD#16 = some (.tBne 221#8) ∧
    decodeThumb 0xD22C#16 = some (.tBcs 44#8) ∧
    decodeThumb 0xD319#16 = some (.tBcc 25#8) ∧
    decodeThumb 0xD4F2#16 = some (.tBmi 242#8) ∧
    decodeThumb 0xD564#16 = some (.tBpl 100#8) ∧
    decodeThumb 0xD6BE#16 = some (.tBvs 190#8) ∧
    decodeThumb 0xD7E4#16 = some (.tBvc 228#8) ∧
    decodeThumb 0xD862#16 = some (.tBhi 98#8) := by decide

theorem test_decode_thumb5 :
    decodeThumb 0xD9A5#16 = some (.tBls 165#8) ∧
    decodeThumb 0xDABA#16 = some (.tBge 186#8) ∧
    decodeThumb 0xDBF2#16 = some (.tBlt 242#8) ∧
    decodeThumb 0xDC0F#16 = some (.tBgt 15#8) ∧
    decodeThumb 0xDDD2#16 = some (.tBle 210#8) ∧
    decodeThumb 0xDE7E#16 = some (.tUnd 126#8) ∧
    decodeThumb 0xDFCF#16 = some (.tSwi 207#8) ∧
    decodeThumb 0xE0A6#16 = some (.tB 166#11) ∧
    decodeThumb 0xF602#16 = some (.tBlPrefix 1538#11) ∧
    decodeThumb 0xF88E#16 = some (.tBlSuffix 142#11) := by decide

/-! ### The worked examples -/

/-- 41 R460, R461, R468, R469, R472 to R475: the Example lines. -/
theorem test_logical :
    regsOf (runA 0xE20100FF#32 (setRegs boot [(1, 0x12345678)])) [0] = some [0x00000078#32] ∧
    regsOf (runA 0xE0322002#32 (setNzcv (setRegs boot [(2, 0xDEADBEEF)]) true false true true)) [2] = some [0x00000000#32] ∧
    nzcv (runA 0xE0322002#32 (setNzcv (setRegs boot [(2, 0xDEADBEEF)]) true false true true)) = some (false, true, true, true) ∧
    nzcv (runA 0xE3100102#32 (setRegs boot [(0, 0x80000000)])) = some (true, false, true, false) ∧
    nzcv (runA 0xE1300000#32 (setNzcv (setRegs boot [(0, 0x5)]) false false true false)) = some (false, true, true, false) ∧
    regsOf (runA 0xE3800CFF#32 (setRegs boot [(0, 0x12)])) [0] = some [0x0000FF12#32] ∧
    regsOf (runA 0xE1A00201#32 (setRegs boot [(1, 0xF000001)])) [0] = some [0xF0000010#32] ∧
    regsOf (runA 0xE3C00001#32 (setRegs boot [(0, 0x8000001)])) [0] = some [0x08000000#32] ∧
    regsOf (runA 0xE3E00000#32 boot) [0] = some [0xFFFFFFFF#32] := by
  and_intros <;> decide

/-- 41 R462 to R471: the Example lines. -/
theorem test_arithmetic :
    regsOf (runA 0xE2510001#32 (setRegs boot [(1, 0x0)])) [0] = some [0xFFFFFFFF#32] ∧
    nzcv (runA 0xE2510001#32 (setRegs boot [(1, 0x0)])) = some (true, false, false, false) ∧
    regsOf (runA 0xE2700000#32 (setRegs boot [(0, 0x5)])) [0] = some [0xFFFFFFFB#32] ∧
    nzcv (runA 0xE2700000#32 (setRegs boot [(0, 0x5)])) = some (true, false, false, false) ∧
    regsOf (runA 0xE0910002#32 (setRegs boot [(1, 0x7FFFFFFF), (2, 0x1)])) [0] = some [0x80000000#32] ∧
    nzcv (runA 0xE0910002#32 (setRegs boot [(1, 0x7FFFFFFF), (2, 0x1)])) = some (true, false, false, true) ∧
    regsOf (runA 0xE0B10002#32 (setNzcv (setRegs boot [(1, 0xFFFFFFFF), (2, 0x0)]) false false true false)) [0] = some [0x00000000#32] ∧
    nzcv (runA 0xE0B10002#32 (setNzcv (setRegs boot [(1, 0xFFFFFFFF), (2, 0x0)]) false false true false)) = some (false, true, true, false) ∧
    regsOf (runA 0xE0D10002#32 (setNzcv (setRegs boot [(1, 0x5), (2, 0x3)]) false false false false)) [0] = some [0x00000001#32] ∧
    nzcv (runA 0xE0D10002#32 (setNzcv (setRegs boot [(1, 0x5), (2, 0x3)]) false false false false)) = some (false, false, true, false) ∧
    regsOf (runA 0xE0F10002#32 (setNzcv (setRegs boot [(1, 0x3), (2, 0x3)]) false false false false)) [0] = some [0xFFFFFFFF#32] ∧
    nzcv (runA 0xE0F10002#32 (setNzcv (setRegs boot [(1, 0x3), (2, 0x3)]) false false false false)) = some (true, false, false, false) ∧
    nzcv (runA 0xE3500000#32 (setRegs boot [(0, 0x0)])) = some (false, true, true, false) ∧
    nzcv (runA 0xE3700001#32 (setRegs boot [(0, 0xFFFFFFFF)])) = some (false, true, true, false) := by
  and_intros <;> decide

/-- 95 section 3.4. -/
theorem test_arithmetic_corners :
    regsOf (runA 0xE0910002#32 (setRegs boot [(1, 0x80000000), (2, 0x80000000)])) [0] = some [0x00000000#32] ∧
    nzcv (runA 0xE0910002#32 (setRegs boot [(1, 0x80000000), (2, 0x80000000)])) = some (false, true, true, true) ∧
    regsOf (runA 0xE0510002#32 (setRegs boot [(1, 0x80000000), (2, 0x1)])) [0] = some [0x7FFFFFFF#32] ∧
    nzcv (runA 0xE0510002#32 (setRegs boot [(1, 0x80000000), (2, 0x1)])) = some (false, false, true, true) ∧
    regsOf (runA 0xE0D10002#32 (setNzcv (setRegs boot [(1, 0x0), (2, 0xFFFFFFFF)]) false false false false)) [0] = some [0x00000000#32] ∧
    nzcv (runA 0xE0D10002#32 (setNzcv (setRegs boot [(1, 0x0), (2, 0xFFFFFFFF)]) false false false false)) = some (false, true, false, false) ∧
    regsOf (runA 0xE0D10002#32 (setNzcv (setRegs boot [(1, 0x80000000), (2, 0x0)]) false false false false)) [0] = some [0x7FFFFFFF#32] ∧
    nzcv (runA 0xE0D10002#32 (setNzcv (setRegs boot [(1, 0x80000000), (2, 0x0)]) false false false false)) = some (false, false, true, true) ∧
    regsOf (runA 0xE0B10002#32 (setNzcv (setRegs boot [(1, 0x7FFFFFFF), (2, 0x0)]) false false true false)) [0] = some [0x80000000#32] ∧
    nzcv (runA 0xE0B10002#32 (setNzcv (setRegs boot [(1, 0x7FFFFFFF), (2, 0x0)]) false false true false)) = some (true, false, false, true) ∧
    regsOf (runA 0xE0F10002#32 (setNzcv (setRegs boot [(1, 0x0), (2, 0x0)]) false false true false)) [0] = some [0x00000000#32] ∧
    nzcv (runA 0xE0F10002#32 (setNzcv (setRegs boot [(1, 0x0), (2, 0x0)]) false false true false)) = some (false, true, true, false) ∧
    nzcv (runA 0xE1510002#32 (setRegs boot [(1, 0x7FFFFFFF), (2, 0xFFFFFFFF)])) = some (true, false, false, true) := by
  and_intros <;> decide

/-- 95 section 3.4: register shifts, RRX, the immediate carry, R15 read ahead. -/
theorem test_shifted_operands :
    regsOf (runA 0xE1B00211#32 (setNzcv (setRegs boot [(1, 0x1), (2, 0x20)]) false false false true)) [0] = some [0x00000000#32] ∧
    nzcv (runA 0xE1B00211#32 (setNzcv (setRegs boot [(1, 0x1), (2, 0x20)]) false false false true)) = some (false, true, true, true) ∧
    regsOf (runA 0xE1B00231#32 (setRegs boot [(1, 0x80000000), (2, 0x20)])) [0] = some [0x00000000#32] ∧
    nzcv (runA 0xE1B00231#32 (setRegs boot [(1, 0x80000000), (2, 0x20)])) = some (false, true, true, false) ∧
    regsOf (runA 0xE1B00251#32 (setRegs boot [(1, 0x7FFFFFFF), (2, 0x21)])) [0] = some [0x00000000#32] ∧
    nzcv (runA 0xE1B00251#32 (setRegs boot [(1, 0x7FFFFFFF), (2, 0x21)])) = some (false, true, false, false) ∧
    regsOf (runA 0xE1B00271#32 (setRegs boot [(1, 0xF0), (2, 0x4)])) [0] = some [0x0000000F#32] ∧
    nzcv (runA 0xE1B00271#32 (setRegs boot [(1, 0xF0), (2, 0x4)])) = some (false, false, false, false) ∧
    regsOf (runA 0xE1B00061#32 (setNzcv (setRegs boot [(1, 0x3)]) false false true false)) [0] = some [0x80000001#32] ∧
    nzcv (runA 0xE1B00061#32 (setNzcv (setRegs boot [(1, 0x3)]) false false true false)) = some (true, false, true, false) ∧
    regsOf (runA 0xE21100FF#32 (setNzcv (setRegs boot [(1, 0x100)]) false false true true)) [0] = some [0x00000000#32] ∧
    nzcv (runA 0xE21100FF#32 (setNzcv (setRegs boot [(1, 0x100)]) false false true true)) = some (false, true, true, true) ∧
    regsOf (runA 0xE3D10102#32 (setRegs boot [(1, 0x80000001)])) [0] = some [0x00000001#32] ∧
    nzcv (runA 0xE3D10102#32 (setRegs boot [(1, 0x80000001)])) = some (false, false, true, false) ∧
    regsOf (runA 0xE28F0000#32 boot) [0] = some [0x08000008#32] ∧
    regsOf (runA 0xE08F0211#32 (setRegs boot [(1, 0x0), (2, 0x0)])) [0] = some [0x0800000C#32] ∧
    faultOf (runA 0xE08F0211#32 (setRegs strict [(1, 0x0), (2, 0x0)])) = some (.unpredictable .regShiftRnPc) ∧
    regsOf (runA 0xE1A0011F#32 (setRegs boot [(1, 0x0)])) [0] = some [0x0800000C#32] := by
  and_intros <;> decide

/-- 95 section 3.4: MOVS PC, R14 in Supervisor mode and in System mode (R451). -/
theorem test_return :
    pcCpsr (runA 0xE1B0F00E#32 { setRegs (inMode .svc boot) [(14, 0x28)] with spsr := { boot.spsr with svc := 0x10 } }) = some (0x00000028#32, 0x00000010#32) ∧
    faultOf (runA 0xE1B0F00E#32 (setRegs strict [(14, 0x8000100)])) = some (.unpredictable .noSpsr) ∧
    pcCpsr (runA 0xE1B0F00E#32 (setRegs boot [(14, 0x8000100)])) = some (0x08000100#32, 0x0000001F#32) := by
  and_intros <;> decide

/-- 42: the Example lines, and 95 section 3.5. -/
theorem test_multiply :
    regsOf (runA 0xE0000291#32 (setRegs boot [(1, 0x10000), (2, 0x10000)])) [0] = some [0x00000000#32] ∧
    regsOf (runA 0xE0203291#32 (setRegs boot [(1, 0x3), (2, 0x4), (3, 0xFFFFFFFF)])) [0] = some [0x0000000B#32] ∧
    regsOf (runA 0xE0100291#32 (setRegs boot [(1, 0xFFFFFFFF), (2, 0xFFFFFFFF)])) [0] = some [0x00000001#32] ∧
    nz (runA 0xE0100291#32 (setRegs boot [(1, 0xFFFFFFFF), (2, 0xFFFFFFFF)])) = some (false, false) ∧
    regsOf (runA 0xE0100291#32 (setRegs boot [(1, 0x80000000), (2, 0x2)])) [0] = some [0x00000000#32] ∧
    nz (runA 0xE0100291#32 (setRegs boot [(1, 0x80000000), (2, 0x2)])) = some (false, true) ∧
    faultOf (runA 0xE00F0291#32 boot) = some (.unpredictable .mulPc) := by
  and_intros <;> decide

/-- 42: the Example lines, and 95 section 3.5. -/
theorem test_long_multiply :
    regsOf (runA 0xE0810392#32 (setRegs boot [(2, 0xFFFFFFFF), (3, 0xFFFFFFFF)])) [0, 1] = some [0x00000001#32, 0xFFFFFFFE#32] ∧
    regsOf (runA 0xE0A10392#32 (setRegs boot [(0, 0xFFFFFFFF), (1, 0x0), (2, 0x1), (3, 0x1)])) [0, 1] = some [0x00000000#32, 0x00000001#32] ∧
    regsOf (runA 0xE0C10392#32 (setRegs boot [(2, 0xFFFFFFFF), (3, 0x2)])) [0, 1] = some [0xFFFFFFFE#32, 0xFFFFFFFF#32] ∧
    regsOf (runA 0xE0E10392#32 (setRegs boot [(0, 0x1), (1, 0x0), (2, 0xFFFFFFFF), (3, 0x1)])) [0, 1] = some [0x00000000#32, 0x00000000#32] ∧
    regsOf (runA 0xE0D10392#32 (setRegs boot [(2, 0x80000000), (3, 0x1)])) [0, 1] = some [0x80000000#32, 0xFFFFFFFF#32] ∧
    nz (runA 0xE0D10392#32 (setRegs boot [(2, 0x80000000), (3, 0x1)])) = some (true, false) ∧
    faultOf (runA 0xE0800392#32 boot) = some (.unpredictable .mullRdHiEqRdLo) := by
  and_intros <;> decide

/-- 43 R550 to R556: the Example lines, and 95 section 3.6. -/
theorem test_branch :
    pcCpsr (runA 0xEAFFFFFE#32 boot) = some (0x08000000#32, 0x0000001F#32) ∧
    regsOf (runA 0xEB00003E#32 boot) [14] = some [0x08000004#32] ∧
    pcCpsr (runA 0xEB00003E#32 boot) = some (0x08000100#32, 0x0000001F#32) ∧
    pcCpsr (runA 0xEA800000#32 boot) = some (0x06000008#32, 0x0000001F#32) ∧
    pcCpsr (runA 0x0AFFFFFE#32 boot) = some (0x08000004#32, 0x0000001F#32) ∧
    pcCpsr (runA 0xE12FFF10#32 (setRegs boot [(0, 0x8000201)])) = some (0x08000200#32, 0x0000003F#32) ∧
    faultOf (runA 0xE12FFF10#32 (setRegs strict [(0, 0x8000102)])) = some (.unpredictable .pcMisalignedArm) := by
  and_intros <;> decide

/-- 43 R560 to R567: the Example lines, and 95 section 3.6. -/
theorem test_status_transfer :
    regsOf (runA 0xE10F0000#32 (setNzcv boot true false true false)) [0] = some [0xA000001F#32] ∧
    pcCpsr (runA 0xE321F01F#32 (inMode .svc boot)) = some (0x08000004#32, 0x0000001F#32) ∧
    pcCpsr (runA 0xE128F000#32 (setRegs boot [(0, 0xF0000000)])) = some (0x08000004#32, 0xF000001F#32) ∧
    pcCpsr (runA 0xE328F20F#32 (inMode .usr boot)) = some (0x08000004#32, 0xF0000010#32) ∧
    pcCpsr (runA 0xE329F01F#32 (inMode .usr boot)) = some (0x08000004#32, 0x00000010#32) ∧
    faultOf (runA 0xE321F00F#32 boot) = some (.invalidMode 0xF) ∧
    faultOf (runA 0xE321F03F#32 boot) = some (.unpredictable .msrChangesT) := by
  and_intros <;> decide

/-- 43 R570, R580, 95 section 3.13: SWI, a coprocessor word, an undefined word under both policies. -/
theorem test_exceptions :
    regsOf (runA 0xEF060000#32 { boot with pc := 0x08000010 }) [14] = some [0x08000014#32] ∧
    pcCpsr (runA 0xEF060000#32 { boot with pc := 0x08000010 }) = some (0x00000008#32, 0x00000093#32) ∧
    regsOf (runA 0xEE100F10#32 boot) [14] = some [0x08000004#32] ∧
    pcCpsr (runA 0xEE100F10#32 boot) = some (0x00000004#32, 0x0000009B#32) ∧
    regsOf (runA 0xE7F000F0#32 boot) [14] = some [0x08000004#32] ∧
    pcCpsr (runA 0xE7F000F0#32 boot) = some (0x00000004#32, 0x0000009B#32) ∧
    faultOf (runA 0xE7F000F0#32 strict) = some (.undefinedInstruction 0xE7F000F0) := by
  and_intros <;> decide

/-- 44: the Example lines of the loads, 95 section 3.7. -/
theorem test_load :
    regsOf (runA 0xE5910000#32 (setRegs ram [(1, 0x3000002)])) [0] = some [0x22114433#32] ∧
    regsOf (runA 0xE7910102#32 (setRegs ram [(1, 0x3000000), (2, 0x1)])) [0] = some [0x88776655#32] ∧
    regsOf (runA 0xE6110002#32 (setRegs ram [(1, 0x3000004), (2, 0x4)])) [0, 1] = some [0x88776655#32, 0x03000000#32] ∧
    regsOf (runA 0xE5710001#32 (setRegs ram [(1, 0x3000004)])) [0, 1] = some [0x00000044#32, 0x03000003#32] ∧
    regsOf (runA 0xE1D100F6#32 (setRegs ram [(1, 0x3000000)])) [0] = some [0xFFFF8877#32] ∧
    regsOf (runA 0xE0D100B2#32 (setRegs ram [(1, 0x3000004)])) [0, 1] = some [0x00006655#32, 0x03000006#32] ∧
    regsOf (runA 0xE1D100D7#32 (setRegs ram [(1, 0x3000000)])) [0] = some [0xFFFFFF88#32] ∧
    regsOf (runA 0xE1D100B0#32 (setRegs ram [(1, 0x3000001)])) [0] = some [0x11000022#32] ∧
    regsOf (runA 0xE4911004#32 (setRegs ram [(1, 0x3000000)])) [1] = some [0x44332211#32] ∧
    regsOf (runA 0xE4B10004#32 (setRegs ram [(1, 0x3000000)])) [0, 1] = some [0x44332211#32, 0x03000004#32] ∧
    regsOf (runA 0xE4F10001#32 (setRegs ram [(1, 0x3000007)])) [0, 1] = some [0x00000088#32, 0x03000008#32] := by
  and_intros <;> decide

/-- 95 section 3.7: LDR PC, bit 0 does not select Thumb (R612); an unmapped load (R230). -/
theorem test_load_pc :
    pcCpsr (runA 0xE591F000#32 (setRegs (withRam boot [0x00, 0x01, 0x00, 0x08]) [(1, 0x3000000)])) = some (0x08000100#32, 0x0000001F#32) ∧
    pcCpsr (runA 0xE591F000#32 (setRegs (withRam boot [0x01, 0x01, 0x00, 0x08]) [(1, 0x3000000)])) = some (0x08000100#32, 0x0000001F#32) ∧
    faultOf (runA 0xE5900000#32 (setRegs boot [(0, 0x10000000)])) = some (.busFault 0x10000000) ∧
    faultOf (runA 0xE5900000#32 (setRegs boot [(0, 0x3000000)])) = some (.unwrittenRead 0x03000000) := by
  and_intros <;> decide

/-- 44: the Example lines of the stores, 95 section 3.7. -/
theorem test_store :
    regsOf (runA 0xE5210004#32 (setRegs boot [(1, 0x3000008), (0, 0xCAFEBABE)])) [1] = some [0x03000004#32] ∧
    bytesOf (runA 0xE5210004#32 (setRegs boot [(1, 0x3000008), (0, 0xCAFEBABE)])) 0x03000004 4 = some [some 0xBE, some 0xBA, some 0xFE, some 0xCA] ∧
    bytesOf (runA 0xE5C10001#32 (setRegs boot [(1, 0x3000000), (0, 0x12345678)])) 0x03000001 1 = some [some 0x78] ∧
    regsOf (runA 0xE4A10004#32 (setRegs boot [(1, 0x3000000), (0, 0x1)])) [1] = some [0x03000004#32] ∧
    bytesOf (runA 0xE4A10004#32 (setRegs boot [(1, 0x3000000), (0, 0x1)])) 0x03000000 4 = some [some 0x01, some 0x00, some 0x00, some 0x00] ∧
    regsOf (runA 0xE4E10001#32 (setRegs boot [(1, 0x3000000), (0, 0x1FF)])) [1] = some [0x03000001#32] ∧
    bytesOf (runA 0xE4E10001#32 (setRegs boot [(1, 0x3000000), (0, 0x1FF)])) 0x03000000 1 = some [some 0xFF] ∧
    bytesOf (runA 0xE1C100B2#32 (setRegs boot [(1, 0x3000000), (0, 0xABCD1234)])) 0x03000002 2 = some [some 0x34, some 0x12] ∧
    bytesOf (runA 0xE58CF000#32 (setRegs boot [(12, 0x3000010)])) 0x03000010 4 = some [some 0x0C, some 0x00, some 0x00, some 0x08] ∧
    bytesOf (runA 0xE5810000#32 (setRegs boot [(1, 0x3000003), (0, 0xAABBCCDD)])) 0x03000000 4 = some [some 0xDD, some 0xCC, some 0xBB, some 0xAA] := by
  and_intros <;> decide

/-- 44 R630, R631: the Example lines, 95 section 3.7. -/
theorem test_swap :
    regsOf (runA 0xE1010092#32 (setRegs ram [(1, 0x3000001), (2, 0x55)])) [0] = some [0x11443322#32] ∧
    bytesOf (runA 0xE1010092#32 (setRegs ram [(1, 0x3000001), (2, 0x55)])) 0x03000000 4 = some [some 0x55, some 0x00, some 0x00, some 0x00] ∧
    regsOf (runA 0xE1410092#32 (setRegs ram [(1, 0x3000001), (2, 0x1FF)])) [0] = some [0x00000022#32] ∧
    bytesOf (runA 0xE1410092#32 (setRegs ram [(1, 0x3000001), (2, 0x1FF)])) 0x03000000 4 = some [some 0x11, some 0xFF, some 0x33, some 0x44] := by
  and_intros <;> decide

/-- 45: the Example line of LDM, 95 section 3.8. -/
theorem test_block_load :
    regsOf (runA 0xE8900006#32 (setRegs (withRam boot [0x00, 0x01, 0x00, 0x00, 0x01, 0x01, 0x00, 0x00, 0x02, 0x01, 0x00, 0x00, 0x03, 0x01, 0x00, 0x00, 0x04, 0x01, 0x00, 0x00]) [(0, 0x3000008)])) [1, 2, 0] = some [0x00000102#32, 0x00000103#32, 0x03000008#32] ∧
    regsOf (runA 0xE9900006#32 (setRegs (withRam boot [0x00, 0x01, 0x00, 0x00, 0x01, 0x01, 0x00, 0x00, 0x02, 0x01, 0x00, 0x00, 0x03, 0x01, 0x00, 0x00, 0x04, 0x01, 0x00, 0x00]) [(0, 0x3000008)])) [1, 2] = some [0x00000103#32, 0x00000104#32] ∧
    regsOf (runA 0xE8100006#32 (setRegs (withRam boot [0x00, 0x01, 0x00, 0x00, 0x01, 0x01, 0x00, 0x00, 0x02, 0x01, 0x00, 0x00, 0x03, 0x01, 0x00, 0x00, 0x04, 0x01, 0x00, 0x00]) [(0, 0x3000008)])) [1, 2] = some [0x00000101#32, 0x00000102#32] ∧
    regsOf (runA 0xE9300006#32 (setRegs (withRam boot [0x00, 0x01, 0x00, 0x00, 0x01, 0x01, 0x00, 0x00, 0x02, 0x01, 0x00, 0x00, 0x03, 0x01, 0x00, 0x00, 0x04, 0x01, 0x00, 0x00]) [(0, 0x3000008)])) [1, 2, 0] = some [0x00000100#32, 0x00000101#32, 0x03000000#32] ∧
    regsOf (runA 0xE8BD8003#32 (setRegs (withRam boot [0x01, 0x00, 0x00, 0x00, 0x02, 0x00, 0x00, 0x00, 0x00, 0x01, 0x00, 0x08]) [(13, 0x3000000)])) [0, 1, 13] = some [0x00000001#32, 0x00000002#32, 0x0300000C#32] ∧
    pcCpsr (runA 0xE8BD8003#32 (setRegs (withRam boot [0x01, 0x00, 0x00, 0x00, 0x02, 0x00, 0x00, 0x00, 0x00, 0x01, 0x00, 0x08]) [(13, 0x3000000)])) = some (0x08000100#32, 0x0000001F#32) ∧
    faultOf (runA 0xE8900000#32 (setRegs strict [(0, 0x3000000)])) = some (.unpredictable .emptyRegList) := by
  and_intros <;> decide

/-- 45: the Example line of STM, 95 section 3.8. -/
theorem test_block_store :
    regsOf (runA 0xE92D400F#32 (setRegs boot [(13, 0x3007F00), (0, 0x1), (1, 0x2), (2, 0x3), (3, 0x4), (14, 0x8000004)])) [13] = some [0x03007EEC#32] ∧
    bytesOf (runA 0xE92D400F#32 (setRegs boot [(13, 0x3007F00), (0, 0x1), (1, 0x2), (2, 0x3), (3, 0x4), (14, 0x8000004)])) 0x03007EEC 20 = some [some 0x01, some 0x00, some 0x00, some 0x00, some 0x02, some 0x00, some 0x00, some 0x00, some 0x03, some 0x00, some 0x00, some 0x00, some 0x04, some 0x00, some 0x00, some 0x00, some 0x04, some 0x00, some 0x00, some 0x08] ∧
    regsOf (runA 0xE8A00003#32 (setRegs boot [(0, 0x3000000), (1, 0x7)])) [0] = some [0x03000008#32] ∧
    bytesOf (runA 0xE8A00003#32 (setRegs boot [(0, 0x3000000), (1, 0x7)])) 0x03000000 8 = some [some 0x00, some 0x00, some 0x00, some 0x03, some 0x07, some 0x00, some 0x00, some 0x00] ∧
    bytesOf (runA 0xE8C06000#32 (setRegs (inMode .svc (setRegs boot [(13, 0x111), (14, 0x222)])) [(0, 0x03000000), (13, 0x333), (14, 0x444)])) 0x03000000 8 = some [some 0x11, some 0x01, some 0x00, some 0x00, some 0x22, some 0x02, some 0x00, some 0x00] ∧
    bytesOf (runA 0xE8808000#32 (setRegs boot [(0, 0x3000000)])) 0x03000000 4 = some [some 0x0C, some 0x00, some 0x00, some 0x08] := by
  and_intros <;> decide

/-- 46: the Example lines of the shifts, 95 section 3.9. -/
theorem test_thumb_shift :
    regsOf (runT 0x0088#16 (setRegs (thumbAt 0x08000100) [(1, 0xC0000001)])) [0] = some [0x00000004#32] ∧
    nzcv (runT 0x0088#16 (setRegs (thumbAt 0x08000100) [(1, 0xC0000001)])) = some (false, false, true, false) ∧
    regsOf (runT 0x0848#16 (setRegs (thumbAt 0x08000100) [(1, 0x3)])) [0] = some [0x00000001#32] ∧
    nzcv (runT 0x0848#16 (setRegs (thumbAt 0x08000100) [(1, 0x3)])) = some (false, false, true, false) ∧
    regsOf (runT 0x1008#16 (setRegs (thumbAt 0x08000100) [(1, 0x80000000)])) [0] = some [0xFFFFFFFF#32] ∧
    nzcv (runT 0x1008#16 (setRegs (thumbAt 0x08000100) [(1, 0x80000000)])) = some (true, false, true, false) ∧
    regsOf (runT 0x0008#16 (setNzcv (setRegs (thumbAt 0x08000100) [(1, 0x80000000)]) false false true true)) [0] = some [0x80000000#32] ∧
    nzcv (runT 0x0008#16 (setNzcv (setRegs (thumbAt 0x08000100) [(1, 0x80000000)]) false false true true)) = some (true, false, true, true) ∧
    regsOf (runT 0x0808#16 (setRegs (thumbAt 0x08000100) [(1, 0x80000000)])) [0] = some [0x00000000#32] ∧
    nzcv (runT 0x0808#16 (setRegs (thumbAt 0x08000100) [(1, 0x80000000)])) = some (false, true, true, false) ∧
    regsOf (runT 0x4088#16 (setRegs (thumbAt 0x08000100) [(0, 0x1), (1, 0x20)])) [0] = some [0x00000000#32] ∧
    nzcv (runT 0x4088#16 (setRegs (thumbAt 0x08000100) [(0, 0x1), (1, 0x20)])) = some (false, true, true, false) ∧
    regsOf (runT 0x40C8#16 (setRegs (thumbAt 0x08000100) [(0, 0x80000000), (1, 0x21)])) [0] = some [0x00000000#32] ∧
    nzcv (runT 0x40C8#16 (setRegs (thumbAt 0x08000100) [(0, 0x80000000), (1, 0x21)])) = some (false, true, false, false) ∧
    regsOf (runT 0x4108#16 (setRegs (thumbAt 0x08000100) [(0, 0x80000000), (1, 0x28)])) [0] = some [0xFFFFFFFF#32] ∧
    nzcv (runT 0x4108#16 (setRegs (thumbAt 0x08000100) [(0, 0x80000000), (1, 0x28)])) = some (true, false, true, false) ∧
    regsOf (runT 0x41C8#16 (setRegs (thumbAt 0x08000100) [(0, 0x1), (1, 0x1)])) [0] = some [0x80000000#32] ∧
    nzcv (runT 0x41C8#16 (setRegs (thumbAt 0x08000100) [(0, 0x1), (1, 0x1)])) = some (true, false, true, false) ∧
    regsOf (runT 0x41C8#16 (setRegs (thumbAt 0x08000100) [(0, 0x80000000), (1, 0x20)])) [0] = some [0x80000000#32] ∧
    nzcv (runT 0x41C8#16 (setRegs (thumbAt 0x08000100) [(0, 0x80000000), (1, 0x20)])) = some (true, false, true, false) := by
  and_intros <;> decide

/-- 46 R704 to R711: the Example lines. -/
theorem test_thumb_immediate :
    regsOf (runT 0x1888#16 (setRegs (thumbAt 0x08000100) [(1, 0xFFFFFFFF), (2, 0x1)])) [0] = some [0x00000000#32] ∧
    nzcv (runT 0x1888#16 (setRegs (thumbAt 0x08000100) [(1, 0xFFFFFFFF), (2, 0x1)])) = some (false, true, true, false) ∧
    regsOf (runT 0x1A88#16 (setRegs (thumbAt 0x08000100) [(1, 0x1), (2, 0x2)])) [0] = some [0xFFFFFFFF#32] ∧
    nzcv (runT 0x1A88#16 (setRegs (thumbAt 0x08000100) [(1, 0x1), (2, 0x2)])) = some (true, false, false, false) ∧
    regsOf (runT 0x1C48#16 (setRegs (thumbAt 0x08000100) [(1, 0x7FFFFFFF)])) [0] = some [0x80000000#32] ∧
    nzcv (runT 0x1C48#16 (setRegs (thumbAt 0x08000100) [(1, 0x7FFFFFFF)])) = some (true, false, false, true) ∧
    regsOf (runT 0x1E48#16 (setRegs (thumbAt 0x08000100) [(1, 0x0)])) [0] = some [0xFFFFFFFF#32] ∧
    nzcv (runT 0x1E48#16 (setRegs (thumbAt 0x08000100) [(1, 0x0)])) = some (true, false, false, false) ∧
    regsOf (runT 0x20FF#16 (setNzcv (thumbAt 0x08000100) true true true true)) [0] = some [0x000000FF#32] ∧
    nzcv (runT 0x20FF#16 (setNzcv (thumbAt 0x08000100) true true true true)) = some (false, false, true, true) ∧
    regsOf (runT 0x2801#16 (setRegs (thumbAt 0x08000100) [(0, 0x0)])) [0] = some [0x00000000#32] ∧
    nzcv (runT 0x2801#16 (setRegs (thumbAt 0x08000100) [(0, 0x0)])) = some (true, false, false, false) ∧
    regsOf (runT 0x3001#16 (setRegs (thumbAt 0x08000100) [(0, 0x7FFFFFFF)])) [0] = some [0x80000000#32] ∧
    nzcv (runT 0x3001#16 (setRegs (thumbAt 0x08000100) [(0, 0x7FFFFFFF)])) = some (true, false, false, true) ∧
    regsOf (runT 0x3801#16 (setRegs (thumbAt 0x08000100) [(0, 0x1)])) [0] = some [0x00000000#32] ∧
    nzcv (runT 0x3801#16 (setRegs (thumbAt 0x08000100) [(0, 0x1)])) = some (false, true, true, false) := by
  and_intros <;> decide

/-- 46 R712 to R727: the Example lines. -/
theorem test_thumb_alu :
    regsOf (runT 0x4008#16 (setNzcv (setRegs (thumbAt 0x08000100) [(0, 0xFF00FF00), (1, 0xFF00FF0)]) true false true true)) [0] = some [0x0F000F00#32] ∧
    nzcv (runT 0x4008#16 (setNzcv (setRegs (thumbAt 0x08000100) [(0, 0xFF00FF00), (1, 0xFF00FF0)]) true false true true)) = some (false, false, true, true) ∧
    regsOf (runT 0x4048#16 (setRegs (thumbAt 0x08000100) [(0, 0xFFFFFFFF), (1, 0xFFFF)])) [0] = some [0xFFFF0000#32] ∧
    nz (runT 0x4048#16 (setRegs (thumbAt 0x08000100) [(0, 0xFFFFFFFF), (1, 0xFFFF)])) = some (true, false) ∧
    regsOf (runT 0x4148#16 (setNzcv (setRegs (thumbAt 0x08000100) [(0, 0x1), (1, 0x1)]) false false true false)) [0] = some [0x00000003#32] ∧
    nzcv (runT 0x4148#16 (setNzcv (setRegs (thumbAt 0x08000100) [(0, 0x1), (1, 0x1)]) false false true false)) = some (false, false, false, false) ∧
    regsOf (runT 0x4188#16 (setNzcv (setRegs (thumbAt 0x08000100) [(0, 0x5), (1, 0x2)]) false false false false)) [0] = some [0x00000002#32] ∧
    nzcv (runT 0x4188#16 (setNzcv (setRegs (thumbAt 0x08000100) [(0, 0x5), (1, 0x2)]) false false false false)) = some (false, false, true, false) ∧
    regsOf (runT 0x4208#16 (setRegs (thumbAt 0x08000100) [(0, 0x1), (1, 0x2)])) [0] = some [0x00000001#32] ∧
    nz (runT 0x4208#16 (setRegs (thumbAt 0x08000100) [(0, 0x1), (1, 0x2)])) = some (false, true) ∧
    regsOf (runT 0x4248#16 (setRegs (thumbAt 0x08000100) [(1, 0x1)])) [0] = some [0xFFFFFFFF#32] ∧
    nzcv (runT 0x4248#16 (setRegs (thumbAt 0x08000100) [(1, 0x1)])) = some (true, false, false, false) ∧
    regsOf (runT 0x4248#16 (setRegs (thumbAt 0x08000100) [(1, 0x80000000)])) [0] = some [0x80000000#32] ∧
    nzcv (runT 0x4248#16 (setRegs (thumbAt 0x08000100) [(1, 0x80000000)])) = some (true, false, false, true) ∧
    regsOf (runT 0x4288#16 (setRegs (thumbAt 0x08000100) [(0, 0x2), (1, 0x1)])) [0] = some [0x00000002#32] ∧
    nzcv (runT 0x4288#16 (setRegs (thumbAt 0x08000100) [(0, 0x2), (1, 0x1)])) = some (false, false, true, false) ∧
    regsOf (runT 0x42C8#16 (setRegs (thumbAt 0x08000100) [(0, 0xFFFFFFFF), (1, 0x1)])) [0] = some [0xFFFFFFFF#32] ∧
    nzcv (runT 0x42C8#16 (setRegs (thumbAt 0x08000100) [(0, 0xFFFFFFFF), (1, 0x1)])) = some (false, true, true, false) ∧
    regsOf (runT 0x4308#16 (setRegs (thumbAt 0x08000100) [(0, 0xF0), (1, 0xF)])) [0] = some [0x000000FF#32] ∧
    regsOf (runT 0x4345#16 (setRegs (thumbAt 0x08000100) [(0, 0xFFFFFFFF), (5, 0x3)])) [5] = some [0xFFFFFFFD#32] ∧
    nz (runT 0x4345#16 (setRegs (thumbAt 0x08000100) [(0, 0xFFFFFFFF), (5, 0x3)])) = some (true, false) ∧
    regsOf (runT 0x4388#16 (setRegs (thumbAt 0x08000100) [(0, 0xFF), (1, 0xF)])) [0] = some [0x000000F0#32] ∧
    regsOf (runT 0x43C8#16 (setRegs (thumbAt 0x08000100) [(1, 0x0)])) [0] = some [0xFFFFFFFF#32] ∧
    nz (runT 0x43C8#16 (setRegs (thumbAt 0x08000100) [(1, 0x0)])) = some (true, false) := by
  and_intros <;> decide

/-- 46 R730 to R742: the Example lines, 95 section 3.9. -/
theorem test_thumb_high :
    regsOf (runT 0x4480#16 (setRegs (thumbAt 0x08000100) [(8, 0x1), (0, 0x2)])) [8] = some [0x00000003#32] ∧
    regsOf (runT 0x4580#16 (setRegs (thumbAt 0x08000100) [(8, 0x5), (0, 0x5)])) [8] = some [0x00000005#32] ∧
    nzcv (runT 0x4580#16 (setRegs (thumbAt 0x08000100) [(8, 0x5), (0, 0x5)])) = some (false, true, true, false) ∧
    regsOf (runT 0x4680#16 (setRegs (thumbAt 0x08000100) [(0, 0x7)])) [8] = some [0x00000007#32] ∧
    regsOf (runT 0x4478#16 (setRegs (thumbAt 0x08000100) [(0, 0x1)])) [0] = some [0x08000105#32] ∧
    pcCpsr (runT 0x4687#16 (setRegs (thumbAt 0x08000100) [(0, 0x8000201)])) = some (0x08000200#32, 0x0000003F#32) ∧
    pcCpsr (runT 0x4770#16 (setRegs (thumbAt 0x08000100) [(14, 0x8000005)])) = some (0x08000004#32, 0x0000003F#32) ∧
    pcCpsr (runT 0x4700#16 (setRegs (thumbAt 0x08000100) [(0, 0x8000100)])) = some (0x08000100#32, 0x0000001F#32) ∧
    regsOf (runT 0xA001#16 (thumbAt 0x08000002)) [0] = some [0x08000008#32] ∧
    regsOf (runT 0xA802#16 (setRegs (thumbAt 0x08000100) [(13, 0x3007F00)])) [0] = some [0x03007F08#32] ∧
    regsOf (runT 0xB004#16 (setRegs (thumbAt 0x08000100) [(13, 0x3007F00)])) [13] = some [0x03007F10#32] ∧
    regsOf (runT 0xB084#16 (setRegs (thumbAt 0x08000100) [(13, 0x3007F00)])) [13] = some [0x03007EF0#32] := by
  and_intros <;> decide

/-- 47 R750 to R767: the Example lines of the loads, 95 section 3.10. -/
theorem test_thumb_load :
    regsOf (runT 0x4801#16 { thumbAt 0x08000102 with mem := [(0x08000108, 0xBE), (0x08000109, 0xBA), (0x0800010A, 0xFE), (0x0800010B, 0xCA)] }) [0] = some [0xCAFEBABE#32] ∧
    regsOf (runT 0x5888#16 (setRegs { ram with cpsr := { boot.cpsr with t := true }, pc := 0x08000100 } [(1, 0x3000000), (2, 0x1)])) [0] = some [0x11443322#32] ∧
    regsOf (runT 0x5C88#16 (setRegs { ram with cpsr := { boot.cpsr with t := true }, pc := 0x08000100 } [(1, 0x3000000), (2, 0x7)])) [0] = some [0x00000088#32] ∧
    regsOf (runT 0x5688#16 (setRegs { ram with cpsr := { boot.cpsr with t := true }, pc := 0x08000100 } [(1, 0x3000000), (2, 0x7)])) [0] = some [0xFFFFFF88#32] ∧
    regsOf (runT 0x5A88#16 (setRegs { ram with cpsr := { boot.cpsr with t := true }, pc := 0x08000100 } [(1, 0x3000000), (2, 0x6)])) [0] = some [0x00008877#32] ∧
    regsOf (runT 0x5E88#16 (setRegs { ram with cpsr := { boot.cpsr with t := true }, pc := 0x08000100 } [(1, 0x3000000), (2, 0x6)])) [0] = some [0xFFFF8877#32] ∧
    regsOf (runT 0x6848#16 (setRegs { ram with cpsr := { boot.cpsr with t := true }, pc := 0x08000100 } [(1, 0x3000000)])) [0] = some [0x88776655#32] ∧
    regsOf (runT 0x7948#16 (setRegs { ram with cpsr := { boot.cpsr with t := true }, pc := 0x08000100 } [(1, 0x3000000)])) [0] = some [0x00000066#32] ∧
    regsOf (runT 0x8848#16 (setRegs { ram with cpsr := { boot.cpsr with t := true }, pc := 0x08000100 } [(1, 0x3000000)])) [0] = some [0x00004433#32] ∧
    regsOf (runT 0x9801#16 (setRegs { ram with cpsr := { boot.cpsr with t := true }, pc := 0x08000100 } [(13, 0x3000000)])) [0] = some [0x88776655#32] := by
  and_intros <;> decide

/-- 47 R751 to R766: the Example lines of the stores. -/
theorem test_thumb_store :
    bytesOf (runT 0x5088#16 (setRegs (thumbAt 0x08000100) [(1, 0x3000000), (2, 0x4), (0, 0x12345678)])) 0x03000004 4 = some [some 0x78, some 0x56, some 0x34, some 0x12] ∧
    bytesOf (runT 0x5488#16 (setRegs (thumbAt 0x08000100) [(1, 0x3000000), (2, 0x5), (0, 0x1AA)])) 0x03000005 1 = some [some 0xAA] ∧
    bytesOf (runT 0x5288#16 (setRegs (thumbAt 0x08000100) [(1, 0x3000000), (2, 0x2), (0, 0xABCD1234)])) 0x03000002 2 = some [some 0x34, some 0x12] ∧
    bytesOf (runT 0x6048#16 (setRegs (thumbAt 0x08000100) [(1, 0x3000000), (0, 0x12345678)])) 0x03000004 4 = some [some 0x78, some 0x56, some 0x34, some 0x12] ∧
    bytesOf (runT 0x7048#16 (setRegs (thumbAt 0x08000100) [(1, 0x3000000), (0, 0x1FF)])) 0x03000001 1 = some [some 0xFF] ∧
    bytesOf (runT 0x8048#16 (setRegs (thumbAt 0x08000100) [(1, 0x3000000), (0, 0xABCD1234)])) 0x03000002 2 = some [some 0x34, some 0x12] ∧
    bytesOf (runT 0x9001#16 (setRegs (thumbAt 0x08000100) [(13, 0x3007E00), (0, 0x12345678)])) 0x03007E04 4 = some [some 0x78, some 0x56, some 0x34, some 0x12] := by
  and_intros <;> decide

/-- 47 R770 to R774: the Example lines, 95 section 3.10. -/
theorem test_thumb_block :
    regsOf (runT 0xB501#16 (setRegs (thumbAt 0x08000100) [(13, 0x3007F00), (0, 0x1), (14, 0x8000005)])) [13] = some [0x03007EF8#32] ∧
    bytesOf (runT 0xB501#16 (setRegs (thumbAt 0x08000100) [(13, 0x3007F00), (0, 0x1), (14, 0x8000005)])) 0x03007EF8 8 = some [some 0x01, some 0x00, some 0x00, some 0x00, some 0x05, some 0x00, some 0x00, some 0x08] ∧
    regsOf (runT 0xBD01#16 (setRegs { (withRam boot [0x01, 0x00, 0x00, 0x00, 0x05, 0x00, 0x00, 0x08]) with cpsr := { boot.cpsr with t := true } } [(13, 0x3000000)])) [0, 13] = some [0x00000001#32, 0x03000008#32] ∧
    pcCpsr (runT 0xBD01#16 (setRegs { (withRam boot [0x01, 0x00, 0x00, 0x00, 0x05, 0x00, 0x00, 0x08]) with cpsr := { boot.cpsr with t := true } } [(13, 0x3000000)])) = some (0x08000004#32, 0x0000003F#32) ∧
    regsOf (runT 0xC006#16 (setRegs (thumbAt 0x08000100) [(0, 0x3000000), (1, 0x5), (2, 0x6)])) [0] = some [0x03000008#32] ∧
    bytesOf (runT 0xC006#16 (setRegs (thumbAt 0x08000100) [(0, 0x3000000), (1, 0x5), (2, 0x6)])) 0x03000000 8 = some [some 0x05, some 0x00, some 0x00, some 0x00, some 0x06, some 0x00, some 0x00, some 0x00] ∧
    regsOf (runT 0xC806#16 (setRegs { ram with cpsr := { boot.cpsr with t := true }, pc := 0x08000100 } [(0, 0x3000000)])) [1, 2, 0] = some [0x44332211#32, 0x88776655#32, 0x03000008#32] ∧
    regsOf (runT 0xC906#16 (setRegs { ram with cpsr := { boot.cpsr with t := true }, pc := 0x08000100 } [(1, 0x3000000)])) [1, 2] = some [0x44332211#32, 0x88776655#32] ∧
    faultOf (runT 0xBC00#16 (thumbAt 0x08000100)) = some (.unpredictable .thumbEmptyRegList) := by
  and_intros <;> decide

/-- 47 R785 to R790: the Example lines, 95 section 3.10. -/
theorem test_thumb_branch :
    pcCpsr (runT 0xD0FE#16 (setNzcv (thumbAt 0x08000100) false true false false)) = some (0x08000100#32, 0x4000003F#32) ∧
    pcCpsr (runT 0xD0FE#16 (thumbAt 0x08000100)) = some (0x08000102#32, 0x0000003F#32) ∧
    pcCpsr (runT 0xD180#16 (thumbAt 0x08000100)) = some (0x08000004#32, 0x0000003F#32) ∧
    pcCpsr (runT 0xDC02#16 (setNzcv (thumbAt 0x08000100) true false false true)) = some (0x08000108#32, 0x9000003F#32) ∧
    pcCpsr (runT 0xE3FF#16 (thumbAt 0x08000100)) = some (0x08000902#32, 0x0000003F#32) ∧
    pcCpsr (runT 0xE400#16 (thumbAt 0x08000100)) = some (0x07FFF904#32, 0x0000003F#32) ∧
    regsOf (runT 0xF7FF#16 (thumbAt 0x08000100)) [14] = some [0x07FFF104#32] ∧
    pcCpsr (runT 0xF7FF#16 (thumbAt 0x08000100)) = some (0x08000102#32, 0x0000003F#32) ∧
    regsOf (runT 0xFF7E#16 (setRegs (thumbAt 0x08000102) [(14, 0x7FFF104)])) [14] = some [0x08000105#32] ∧
    pcCpsr (runT 0xFF7E#16 (setRegs (thumbAt 0x08000102) [(14, 0x7FFF104)])) = some (0x08000000#32, 0x0000003F#32) ∧
    regsOf (runT 0xDF05#16 (thumbAt 0x08000100)) [14] = some [0x08000102#32] ∧
    pcCpsr (runT 0xDF05#16 (thumbAt 0x08000100)) = some (0x00000008#32, 0x00000093#32) ∧
    regsOf (runT 0xDE00#16 (thumbAt 0x08000300)) [14] = some [0x08000302#32] ∧
    pcCpsr (runT 0xDE00#16 (thumbAt 0x08000300)) = some (0x00000004#32, 0x0000009B#32) ∧
    regsOf (runT 0xE800#16 (thumbAt 0x08000300)) [14] = some [0x08000302#32] ∧
    pcCpsr (runT 0xE800#16 (thumbAt 0x08000300)) = some (0x00000004#32, 0x0000009B#32) := by
  and_intros <;> decide

/-! ### Savedata and render proxy vectors (95 sections 3.11, 3.12) -/

/-- The stores of a Flash sequence, in order. -/
def flashRun (k : SaveKind) (x : Save) (l : List (Nat × Byte)) : Save := l.foldl (fun x p => flashStore8 k x p.1 p.2) x

/-- The sequencer as 95 section 3.11 shows it: unlock, pendingCommand, command. -/
def sequencer (x : Save) : Nat × Bool × FlashCommand := (x.flash.unlock.val, x.flash.pendingCommand, x.flash.command)

def unlock : List (Nat × Byte) := [(0x5555, 0xAA), (0x2AAA, 0x55)]

/-- R826 and 95 S5: the chip erase, state by state. -/
theorem test_flash_chip_erase :
    sequencer (flashRun .flash64 (Save.powerOn []) [(0x5555, 0xAA)]) = (1, false, .none) ∧
    sequencer (flashRun .flash64 (Save.powerOn []) unlock) = (2, false, .none) ∧
    sequencer (flashRun .flash64 (Save.powerOn []) (unlock ++ [(0x5555, 0x80)])) = (0, true, .none) ∧
    sequencer (flashRun .flash64 (Save.powerOn []) (unlock ++ [(0x5555, 0x80)] ++ unlock)) = (0, true, .erase) ∧
    sequencer (flashRun .flash64 (Save.powerOn []) (unlock ++ [(0x5555, 0x80)] ++ unlock ++ [(0x5555, 0x10)])) =
      (0, false, .none) ∧
    (flashRun .flash64 (Save.powerOn []) (unlock ++ [(0x5555, 0x80)] ++ unlock ++ [(0x5555, 0x10)])).buffer.read 0x1234 = 0xFF ∧
    (flashRun .flash64 (Save.powerOn []) (unlock ++ [(0x5555, 0x80)] ++ unlock ++ [(0x5555, 0x10)])).writePending = true := by
  and_intros <;> decide

/-- V-F1, V-F2, V-F4, V-F5, V-F6. -/
theorem test_flash_commands :
    sequencer (flashRun .flash64 (Save.powerOn []) [(0x5555, 0xAA), (0x1234, 0x00)]) = (0, false, .none) ∧
    sequencer (flashRun .flash64 (Save.powerOn []) (unlock ++ [(0x1111, 0xA0)])) = (0, false, .none) ∧
    (flashLoad8 .flash64 (flashRun .flash64 (Save.powerOn []) (unlock ++ [(0x5555, 0x90)])) 0 = 0x32 ∧
      flashLoad8 .flash64 (flashRun .flash64 (Save.powerOn []) (unlock ++ [(0x5555, 0x90)])) 1 = 0x1B) ∧
    (flashRun .flash64 (Save.powerOn []) (unlock ++ [(0x5555, 0xB0), (0, 1)])).flash.bank = 0 ∧
    (flashRun .flash128 (Save.powerOn [])
      (unlock ++ [(0x5555, 0xB0), (0, 1)] ++ unlock ++ [(0x5555, 0xA0), (0x10, 0x42)])).buffer.read 0x10010 = 0x42 := by
  and_intros <;> decide

/-- The EEPROM stores of some bits, in order. -/
def eepromRun (count : Nat) : List Bool → Save → Except FaultReason Save
  | [], x => .ok x
  | b :: bs, x => do eepromRun count bs (← eepromStore16 boot.params count x b)

/-- R838: the header and address 3 of a read of a 512-byte part leave it in READ with 68 bits to go; V-E4: 70 - 67 is no width;
V-E5: a load with DMA channel 3 disabled is 1 and moves nothing. -/
theorem test_eeprom_read_request :
    ((eepromRun 9 [true, true, false, false, false, false, true, true, false] (Save.powerOn [])).map
      (fun x => (x.eeprom.command, x.eeprom.readBitsRemaining, x.eeprom.readAddress))) = .ok (.read, 68, 192) ∧
    ((eepromRun 70 [true, false] (Save.powerOn [])).map (fun x => x.eeprom.command)) = .error (.eepromAddressWidth 3) ∧
    ((eepromRun 9 [true, true, false, false, false, false, true, true, false] (Save.powerOn [])).map
      (fun x => ((eepromLoad16 false x).1, (eepromLoad16 false x).2.eeprom.readBitsRemaining))) = .ok (1, 68) := by
  and_intros <;> decide

/-- V-S1: SRAM is little-endian. -/
theorem test_sram :
    bytesOf (runA 0xE5810000#32 (setRegs boot [(1, 0x0E000010), (0, 0x11223344)])) 0x0E000010 4 =
      some [some 0x44, some 0x33, some 0x22, some 0x11] := by decide

/-- Halfword stores to VRAM, in order. -/
def proxyRun (x : Proxy) : List (Nat × Word) → Except FaultReason Proxy
  | [] => .ok x
  | e :: es => do proxyRun (← proxyStore boot.params x .vram e.1 .half e.2) es

/-- R871 and V-P8: three stores to block 0 and one to block 1 give one record with the two blocks; a misaligned store. -/
theorem test_render_proxy :
    (proxyRun Proxy.constructed [(0x0000, 0x1111), (0x0002, 0x2222), (0x1FFE, 0x3333), (0x2000, 0x4444)]).map
      (fun x => ((x.drawScanline boot.params 5).queue.map (fun r => (r.y, r.vram.map Prod.fst)))) =
        .ok [(5, [0, 1])] ∧
    (proxyRun Proxy.constructed [(0x0000, 0x1111), (0x2000, 0x4444)]).map
      (fun x => ((x.drawScanline boot.params 5).clean,
        ((x.drawScanline boot.params 5).drawScanline boot.params 6).queue.length)) = .ok (true, 1) ∧
    (proxyRun Proxy.constructed [(1, 0)]).map (fun x => x.clean) = .error (.proxyAccess .vram 1 2) := by
  and_intros <;> decide

/-! ### The step, the shifter, the conditions -/

/-- 95 section 3.13: the IRQ before the Thumb instruction at 0x08000200, then the return at 0x18. -/
theorem test_irq_and_return :
    pcCpsr (step { setNzcv (thumbAt 0x08000200) true false false false with irqLine := true }) =
      some (0x18, 0x80000092) ∧
    regsOf (step { setNzcv (thumbAt 0x08000200) true false false false with irqLine := true }) [14] =
      some [0x08000204] ∧
    pcCpsr (runA 0xE25EF004#32
      (takeException .irq 0x08000204 (setNzcv (thumbAt 0x08000200) true false false false))) =
      some (0x08000200, 0x8000003F) := by
  and_intros <;> decide

/-- A word placed at the reset vector is the first instruction run, in either state; a masked IRQ is not taken (R115). -/
theorem test_first_instruction :
    pcCpsr (step (State.reset.withFetchWord 32 0xEAFFFFFE)) = some (0, 0xD3) ∧
    regsOf (step (State.reset.withFetchWord 16 0x20FF)) [0] = some [0xFF] ∧
    decodeTableWord 32 0xE0910002 = some (.addShiftImm .al true 1#4 0#4 0#5 .lsl 2#4) ∧
    decodeTableWord 16 0x4348 = some (.tMul 1#3 0#3) ∧
    pcCpsr (step { State.reset.withFetchWord 32 0xEAFFFFFE with irqLine := true }) = some (0, 0xD3) := by
  and_intros <;> decide

/-- 95 section 3.1: v = 0x80000001 by a register amount; 3.2 by an immediate one. -/
theorem test_shifter :
    [0, 1, 31, 32, 33, 255].map (fun k => shiftByReg .lsl k 0x80000001#32 (k == 0)) =
      [(0x80000001, true), (0x2, true), (0x80000000, false), (0, true), (0, false), (0, false)] ∧
    [0, 1, 31, 32, 33, 255].map (fun k => shiftByReg .lsr k 0x80000001#32 (k == 0)) =
      [(0x80000001, true), (0x40000000, true), (1, false), (0, true), (0, false), (0, false)] ∧
    [0, 1, 31, 32, 33, 255].map (fun k => shiftByReg .asr k 0x80000001#32 (k == 0)) =
      [(0x80000001, true), (0xC0000000, true), (0xFFFFFFFF, false), (0xFFFFFFFF, true), (0xFFFFFFFF, true),
        (0xFFFFFFFF, true)] ∧
    [0, 1, 31, 32, 33, 255].map (fun k => shiftByReg .ror k 0x80000001#32 (k == 0)) =
      [(0x80000001, true), (0xC0000000, true), (3, false), (0x80000001, true), (0xC0000000, true), (3, false)] ∧
    [ShiftKind.lsl, .lsr, .asr, .ror].map (fun k => shiftByImm k 0#5 0x80000001#32 true) =
      [(0x80000001, true), (0, true), (0xFFFFFFFF, true), (0xC0000000, true)] ∧
    shiftedImm 15#4 0xFF#8 true = (0x3FC, false) ∧ shiftedImm 1#4 2#8 false = (0x80000000, true) := by
  and_intros <;> decide

/-- 95 section 3.3: the conditions with N1 Z0 C1 V1 and with N0 Z1 C0 V0. -/
theorem test_conditions :
    [Cond.eq, .cs, .mi, .vs, .hi, .ge, .gt, .al].map (fun c => condHolds c { boot.cpsr with n := true, c := true, v := true }) =
      [false, true, true, true, true, true, true, true] ∧
    [Cond.eq, .cs, .mi, .vs, .hi, .ge, .gt, .al].map (fun c => condHolds c { boot.cpsr with z := true }) =
      [true, false, false, false, false, true, false, true] ∧
    [Cond.ne, .cc, .pl, .vc, .ls, .lt, .le].map (fun c => condHolds c { boot.cpsr with z := true }) =
      [false, true, true, true, true, false, true] := by
  and_intros <;> decide

/-! ### Ill-formed terms -/

/-- One ill-formed term for each should-be-zero check (R375). -/
theorem test_wellFormed_sbz :
    ([ .tstImm .al 0 1 0 0, .tstShiftImm .al 0 1 0 .lsl 0, .tstShiftReg .al 0 1 0 .lsl 0, .teqImm .al 0 1 0 0,
      .teqShiftImm .al 0 1 0 .lsl 0, .teqShiftReg .al 0 1 0 .lsl 0, .cmpImm .al 0 1 0 0, .cmpShiftImm .al 0 1 0 .lsl 0,
      .cmpShiftReg .al 0 1 0 .lsl 0, .cmnImm .al 0 1 0 0, .cmnShiftImm .al 0 1 0 .lsl 0, .cmnShiftReg .al 0 1 0 .lsl 0,
      .movImm .al true 1 0 0 0, .movShiftImm .al true 1 0 0 .lsl 0, .movShiftReg .al true 1 0 0 .lsl 0,
      .mvnImm .al true 1 0 0 0, .mvnShiftImm .al true 1 0 0 .lsl 0, .mvnShiftReg .al true 1 0 0 .lsl 0,
      .mul .al false 0 1 2 3, .tBx 0 1 ] : List Instr).all (fun i => !i.wellFormed) = true ∧
    ([ .strhPre .al true false false 0 1 1 2, .strhPost .al true false 0 1 1 2, .ldrhPre .al true false false 0 1 1 2,
      .ldrhPost .al true false 0 1 1 2, .ldrsbPre .al true false false 0 1 1 2, .ldrsbPost .al true false 0 1 1 2,
      .ldrshPre .al true false false 0 1 1 2, .ldrshPost .al true false 0 1 1 2 ] : List Instr).all
      (fun i => !i.wellFormed) = true := by
  and_intros <;> decide

/-- One ill-formed term for each register check (93 section 1, "fault always"). -/
theorem test_wellFormed_registers :
    ([ .mrs .al false 15, .msrReg .al false 9 15, .mul .al false 15 0 1 2, .mla .al false 0 15 1 2,
      .umull .al false 0 0 1 2, .umlal .al false 15 0 1 2, .smull .al false 0 15 1 2, .smlal .al false 0 1 15 2,
      .swp .al 15 0 1, .swpb .al 0 15 1 ] : List Instr).all (fun i => !i.wellFormed) = true ∧
    ([ .strhPre .al true true true 15 0 0 0, .strhPost .al true true 15 0 0 0, .ldrhPre .al true true false 0 15 0 0,
      .ldrhPost .al true true 0 15 0 0, .ldrsbPre .al true true true 15 0 0 0, .ldrsbPost .al true true 0 15 0 0,
      .ldrshPre .al true true false 0 15 0 0, .ldrshPost .al true true 15 0 0 0 ] : List Instr).all
      (fun i => !i.wellFormed) = true ∧
    ([ .strImmPre .al true true 15 0 0, .strImmPost .al true 15 0 0, .strtImm .al true 15 0 0,
      .strRegPre .al true true 15 0 0 .lsl 1, .strRegPost .al true 15 0 0 .lsl 1, .strtReg .al true 15 0 0 .lsl 1,
      .ldrImmPre .al true true 15 0 0, .ldrImmPost .al true 15 0 0, .ldrtImm .al true 15 0 0,
      .ldrRegPre .al true true 15 0 0 .lsl 1, .ldrRegPost .al true 15 0 0 .lsl 1, .ldrtReg .al true 15 0 0 .lsl 1 ] :
      List Instr).all (fun i => !i.wellFormed) = true ∧
    ([ .strbImmPre .al true true 15 0 0, .strbImmPost .al true 15 0 0, .strbtImm .al true 15 0 0,
      .strbRegPre .al true true 15 0 0 .lsl 1, .strbRegPost .al true 15 0 0 .lsl 1, .strbtReg .al true 15 0 0 .lsl 1,
      .ldrbImmPre .al true false 0 15 0, .ldrbImmPost .al true 0 15 0, .ldrbtImm .al true 0 15 0,
      .ldrbRegPre .al true false 0 15 0 .lsl 1, .ldrbRegPost .al true 0 15 0 .lsl 1, .ldrbtReg .al true 0 15 0 .lsl 1,
      .tPush false 0, .tPop false 0, .tStmia 0 0, .tLdmia 0 0 ] : List Instr).all (fun i => !i.wellFormed) = true ∧
    (Instr.addImm .al true 1 0 0 1).wellFormed = true ∧ (Instr.tPush true 0).wellFormed = true := by
  and_intros <;> decide

/-! ### Witnesses: for every statement with hypotheses, a state and operands that meet them -/

/-- `Starts`, as a test. -/
def canStart (sh : Shape) (s : State) : Bool :=
  (match sh.cond? with
    | some c => condHolds c s.cpsr
    | none => true) &&
  (s.params.arm7tdmiAlt || !(sh.cond?.isSome && s.afterUserLdm && sh.regs.any s.cpsr.m.banks))

theorem starts {sh : Shape} {s : State} (h : canStart sh s = true) : Starts sh s := by
  simp only [canStart, Bool.and_eq_true, Bool.or_eq_true, Bool.not_eq_true'] at h
  refine ⟨fun c hc => ?_, h.2⟩
  simpa [hc] using h.1

/-- `Permits`, as a test. -/
def mayRun (sh : Shape) (s : State) : Bool := !sh.alwaysFaults && (s.params.arm7tdmiAlt || !sh.altCase s)

theorem permits {sh : Shape} {s : State} (h : mayRun sh s = true) : Permits sh s := by
  simpa [mayRun, Permits, Bool.and_eq_true, Bool.or_eq_true] using h

/-- Both. -/
theorem runs {sh : Shape} {s : State} (h : (canStart sh s && mayRun sh s) = true) : Starts sh s ∧ Permits sh s := by
  rw [Bool.and_eq_true] at h
  exact ⟨starts h.1, permits h.2⟩

def isOk {α : Type} (x : Except Fault α) : Bool :=
  match x with
  | .ok _ => true
  | .error _ => false

def isNext : Result → Bool
  | .next _ => true
  | _ => false

theorem served {α : Type} {x : Except Fault α} (h : isOk x = true) : ∃ a, x = .ok a := by
  cases x with
  | ok a => exact ⟨a, rfl⟩
  | error f => cases h

theorem servedPair {α β : Type} {x : Except Fault (α × β)} (h : isOk x = true) : ∃ a b, x = .ok (a, b) := by
  obtain ⟨⟨a, b⟩, h⟩ := served h
  exact ⟨a, b, h⟩

theorem goesOn {r : Result} (h : isNext r = true) : ∃ t, r = .next t := by
  cases r with
  | next t => exact ⟨t, rfl⟩
  | fault f => cases h
  | refused x => cases h

/-- A state about to run `MOV R0, R1` from ROM. -/
def placed : State := boot.withFetchWord 32 0xE1A00001

theorem test_witness_DecodeEncode :
    decode (.arm 0xE1A00001#32) = some (.movShiftImm .al false 0#4 0#4 0#5 .lsl 1#4) ∧
    decode (.thumb 0x4770#16) = some (.tBx 14#4 0#3) := by
  and_intros <;> decide

/-- The first and the last halfwords of the ranges are checked in `test_thumb_holes`; an NV word with no row. -/
theorem test_witness_UnallocatedSpace :
    decodeArm 0xF12FFF30#32 = none ∧ field 0xF12FFF30#32 28 4 = 0b1111#4 ∧ strict.params.arm7tdmiAlt = false ∧
    boot.params.arm7tdmiAlt = true := by
  and_intros <;> decide

/-- R372 at the ends of its ranges. -/
theorem test_thumb_holes :
    [0x4780#16, 0x47FF#16, 0xB100#16, 0xB3FF#16, 0xB600#16, 0xBBFF#16, 0xBE00#16, 0xBFFF#16, 0xE800#16, 0xEFFF#16].all
      (fun h => (decodeThumb h).isNone) = true ∧
    [0x477F#16, 0x4800#16, 0xB0FF#16, 0xB400#16, 0xB5FF#16, 0xBC00#16, 0xBDFF#16, 0xC000#16, 0xE7FF#16, 0xF000#16].all
      (fun h => (decodeThumb h).isSome) = true ∧
    decodeThumb 0xDEFF#16 = some (.tUnd 0xFF#8) := by
  and_intros <;> decide

/-- Clause 1, and clause 2 at its boundary: the last byte of the instruction. -/
theorem test_witness_StepRunsDecoded :
    (placed.nextTurn = (.cpu, placed) ∧ pendingInterrupt placed = none ∧
      (∃ k s', fetch placed = .ok (k, s') ∧ k = .arm 0xE1A00001#32) ∧
      decode (.arm 0xE1A00001#32) = some (.movShiftImm .al false 0#4 0#4 0#5 .lsl 1#4)) ∧
    placed.cpsr.t = (Instr.movShiftImm .al false 0#4 0#4 0#5 .lsl 1#4).isThumb ∧
    classify placed.params placed.pc = some (.rom, 0x08000000) ∧
    (∀ j < 4, (Instr.movShiftImm .al false 0#4 0#4 0#5 .lsl 1#4).bytes[j]? = Memory.read placed.mem (0x08000000 + j)) ∧
    racedWords placed.stale placed.pc = [] ∧
    ({ placed with schedule := [.host (.irq true), .cpu] } : State).schedule = .host (.irq true) :: [.cpu] := by
  refine ⟨⟨rfl, rfl, ⟨_, _, rfl, rfl⟩, by decide⟩, by decide, by decide, by decide, rfl, rfl⟩

theorem test_witness_UnallocatedIsUndefined :
    condHolds (Cond.ofBits (field 0xE12FFF30#32 28 4)) boot.cpsr = true ∧ boot.params.undefPolicy = .trap ∧
    condHolds (Cond.ofBits (field 0xE12FFF30#32 28 4)) strict.cpsr = true ∧ strict.params.undefPolicy = .fault := by
  and_intros <;> decide

/-- A failed EQ without the alternatives, and NV with them. -/
theorem test_witness_FailedCondition :
    ((shapeOf (.b .eq 0#24)).cond? = some .eq ∧ condHolds .eq strict.cpsr = false ∧ Cond.eq ≠ .nv) ∧
    (shapeOf (.b .nv 0#24)).cond? = some .nv ∧ condHolds .nv boot.cpsr = false ∧ boot.params.arm7tdmiAlt = true := by
  and_intros <;> decide

theorem test_witness_NvCondition :
    (shapeOf (.swi .nv 0#24)).cond? = some .nv ∧ strict.params.arm7tdmiAlt = false ∧ boot.params.arm7tdmiAlt = true ∧
    field 0xF12FFF30#32 28 4 = 0b1111#4 ∧ decodeArm 0xF12FFF30#32 = none := by
  and_intros <;> decide

/-- With nothing scheduled, and on a scheduled turn of the CPU unit. -/
theorem test_witness_InterruptTaken :
    ({ boot with irqLine := true } : State).nextTurn = (.cpu, { boot with irqLine := true }) ∧
    ({ boot with irqLine := true, schedule := [.cpu] } : State).nextTurn = (.cpu, { boot with irqLine := true }) ∧
    boot.params.fiqLine = false ∧ ({ boot with irqLine := true } : State).irqLine = true ∧ boot.cpsr.i = false := by
  and_intros <;> rfl

/-- Under each boot profile, with turns after the reset. -/
theorem test_witness_ResetFirst :
    ({ boot with schedule := [.host .reset, .cpu, .host (.irq true)] } : State).schedule =
      .host .reset :: [.cpu, .host (.irq true)] ∧
    boot.params.bootProfile = .directBoot ∧ State.reset.params.bootProfile = .hwReset := by
  and_intros <;> rfl

/-- R912, R961: a step of the CPU unit falls between `startDraw` and `finishDraw`, and an interrupt between two of its steps. -/
theorem test_turns_interleave :
    let s : State := { placed with schedule := [.host .startDraw, .cpu, .host (.irq true), .host .finishDraw, .cpu] }
    (match step s with
      | .next a =>
        match step a with
        | .next b =>
          match step b with
          | .next c => some (a.proxy.delay, b.pc, c.irqLine, c.pc, c.schedule.length)
          | _ => none
        | _ => none
      | _ => none) = some (1, 0x08000004, true, 0x08000004, 2) := by
  decide

theorem test_witness_StepKeepsInv : placed.Inv ∧ ∃ t, step placed = .next t :=
  ⟨⟨by decide, by decide, by decide, by decide, by decide, by decide⟩, ⟨_, rfl⟩⟩

theorem test_witness_ResetInv : Config.chipParams.paletteSize % 2 = 0 ∧ Config.chipParams.vramSize % 2 = 0 := by decide

/-- Both boot profiles; a supplied byte of the image, the last one. -/
theorem test_witness_ResetState :
    boot.params.bootProfile = .directBoot ∧ State.reset.params.bootProfile = .hwReset ∧
    ({ Config.resetParams with initialImage := [0x12, 0x34] } : Params).initialImage[1]? = some 0x34#8 ∧
    (State.powerOn { Config.resetParams with initialImage := [0x12, 0x34] }).save.buffer.read 1 = 0x34#8 := by
  and_intros <;> decide

/-- STR R0, [R1] at 0x03000000 onto the instruction at 0x03000004. -/
def racing : State := { setRegs (withRam boot [0, 0, 0, 0, 1, 0, 0, 0, 3, 0, 0, 0]) [(0, 2), (1, 0x03000004)] with pc := 0x03000000 }

/-- The store, by any name. -/
def raceStore : Instr := .strImmPre .al true false 1#4 0#4 0#12

/-- `racing` after the store: the old word of 0x03000004 is outstanding. -/
def raced : State :=
  { racing with
    mem := Memory.writeN racing.mem 0x03000004 4 2
    pc := 0x03000004
    stale := [⟨0x03000004, some 1⟩] }

/-- R250, R971: the store records the old word of A + W or A + 2W, of nothing else, and a branch to A + W empties the record. -/
theorem test_race_recorded :
    (match exec raceStore racing with
      | .next t => decide (t = raced)
      | _ => false) = true ∧
    (match cpuStore .word 0x03000008 2 racing with
      | .ok t => t.stale
      | .error _ => []) = [⟨0x03000008, some 3⟩] ∧
    (match cpuStore .word 0x0300000C 2 racing with
      | .ok t => t.stale
      | .error _ => []) = [] ∧
    (match exec (.b .al 0xFFFFFF) { raced with pc := 0x03000000 } with
      | .next t => some (t.pc, t.stale)
      | _ => none) = some (0x03000004, []) := by
  and_intros <;> decide

/-- The stores of the first clause at A + W and A + 2W, the compare and the store of the second, the fetches of the third. -/
theorem test_witness_PrefetchRace :
    ((∃ t u, busStore .word 0x03000004 2 racing = .ok u ∧ cpuStore .word 0x03000004 2 racing = .ok t ∧
      storeReaches racing.params .word 0x03000004 (fetchWidth racing) (racing.pc + instrStep racing) = true ∧
      peek (fetchWidth racing) (racing.pc + instrStep racing) racing = some 1#32 ∧
      peek (fetchWidth racing) (racing.pc + instrStep racing) u = some 2#32) ∧
      ∃ t u, busStore .word 0x03000008 2 racing = .ok u ∧ cpuStore .word 0x03000008 2 racing = .ok t ∧
        storeReaches racing.params .word 0x03000008 (fetchWidth racing) (racing.pc + instrStep racing + instrStep racing) =
          true) ∧
    ((∃ t, exec raceStore racing = .next t) ∧ ∃ t, exec (.cmpImm .al 1 0 0 1) racing = .next t ∧
      (shapeOf (.cmpImm .al 1 0 0 1)).storesTo racing = [] ∧ (shapeOf (.cmpImm .al 1 0 0 1)).callsService racing = false) ∧
    (busLoad (fetchWidth raced) raced.pc raced = .ok (2#32, raced) ∧ (∃ k t, fetch raced = .ok (k, t)) ∧
      ∃ k t, fetch racing = .ok (k, t) ∧ ∀ e ∈ racing.stale, e.addr ≠ racing.pc) := by
  have key : ∃ k t, fetch raced = .ok (k, t) := by
    have h : fetch raced = (do
        let c ← chooseRaced 2#32 [some 1#32] raced
        return (.arm c.1, { c.2 with stale := dropRaced c.2.stale raced.pc })) := rfl
    rw [h]
    simp only [chooseRaced, List.isEmpty_cons, Bool.false_eq_true, if_false, List.length_singleton]
    have : ∀ n < 2, ∃ w, ([some 2#32, some 1#32][n]? : Option (Option Word)).join = some w := by
      intro n hn
      match n, hn with
      | 0, _ => exact ⟨_, rfl⟩
      | 1, _ => exact ⟨_, rfl⟩
    obtain ⟨w, hw⟩ := this ((draw raced).1.toNat % 2) (Nat.mod_lt _ (by decide))
    simp only [hw]
    exact ⟨_, _, rfl⟩
  exact ⟨⟨⟨_, _, rfl, rfl, by decide, by decide, by decide⟩, _, _, rfl, rfl, by decide⟩,
    ⟨goesOn (by decide), _, rfl, by decide, by decide⟩, rfl, key, _, _, rfl, by decide⟩

/-- Register 13 of System and User mode is one register; of Supervisor mode another; R7 is shared with FIQ, R8 not. -/
theorem test_witness_BankedRegisters :
    (13#4 ≠ 15#4 ∧ 7#4 ≠ 15#4) ∧
    (boot.setBankReg .usr 13#4 1#32).bankReg .sys 13#4 = 1#32 ∧ (boot.setBankReg .usr 13#4 1#32).bankReg .svc 13#4 = 0x03007FE0#32 ∧
    (boot.setBankReg .usr 7#4 1#32).bankReg .fiq 7#4 = 1#32 ∧ (boot.setBankReg .usr 8#4 1#32).bankReg .fiq 8#4 = 0#32 := by
  and_intros <;> decide

theorem test_witness_CpsrPacking : ∃ q, Cpsr.unpack 0xFFFFFF1F#32 = .ok q ∧ q.pack = 0xF000001F#32 :=
  ⟨_, rfl, by decide⟩

theorem test_witness_LinkValues :
    (∃ t, exec (.swi .al 5#24) boot = .next t) ∧ (shapeOf (.swi .al 5#24) = .swi .al 5#24 ∧ condHolds .al boot.cpsr = true ∧
      boot.params.swiMode = .trap) ∧
    (∃ t, exec (.tSwi 5#8) (thumbAt 0x08000100) = .next t) ∧ (∃ t, exec (.mrc .al 0 0 0 15 0 0) boot = .next t) ∧
    (∃ n, shapeOf (.mrc .al 0 0 0 15 0 0) = .undefArm .al n) ∧ (∃ t, exec (.tUnd 0) (thumbAt 0x08000100) = .next t) ∧
    (condHolds (Cond.ofBits (field 0xE12FFF30#32 28 4)) boot.cpsr = true ∧ ∃ t, unallocated (.arm 0xE12FFF30#32) boot = .next t) ∧
    (∃ t, unallocated (.thumb 0xE800#16) (thumbAt 0x08000100) = .next t) ∧
    ({ boot with irqLine := true } : State).nextTurn = (.cpu, { boot with irqLine := true }) ∧
    (∃ t, pendingInterrupt { boot with irqLine := true } = some .irq ∧ step { boot with irqLine := true } = .next t) ∧
    (∃ t, pendingInterrupt { boot with params := { boot.params with fiqLine := true } } = some .fiq ∧
      step { boot with params := { boot.params with fiqLine := true } } = .next t) :=
  ⟨⟨_, rfl⟩, ⟨rfl, rfl, rfl⟩, ⟨_, rfl⟩, ⟨_, rfl⟩, ⟨_, rfl⟩, ⟨_, rfl⟩, ⟨by decide, _, rfl⟩, ⟨_, rfl⟩, rfl, ⟨_, rfl, rfl⟩, ⟨_, rfl, rfl⟩⟩

/-- An odd multiple of 2 in Thumb state, a multiple of 4 in ARM state. -/
theorem test_witness_ExceptionRoundTrip :
    (if (thumbAt 0).cpsr.t then (0x08000202#32) &&& 1#32 = 0#32 else (0x08000202#32) &&& 3#32 = 0#32) ∧
    (if boot.cpsr.t then (0x08000204#32) &&& 1#32 = 0#32 else (0x08000204#32) &&& 3#32 = 0#32) := by
  and_intros <;> decide

/-- A machine whose whole address space is I/O: there every access of a service is served. -/
def allIo : State :=
  { boot with
    params := { boot.params with swiMode := .external, route := [⟨0, 0xFFFFFFFF, .always, .io, .masked 0 0⟩] } }

theorem allIo_serves (l : List SwiAccess) : ∀ s : State, s.params.route = allIo.params.route → ∃ t, swiAccesses l s = .ok t := by
  have hc : ∀ (s : State) (a : Word), s.params.route = allIo.params.route → ∃ k, classify s.params a = some (.io, k) := by
    intro s a h
    refine ⟨0, ?_⟩
    have : a.toNat ≤ 0xFFFFFFFF := by have := a.isLt; omega
    simp [classify, h, allIo, entryCovers, guardHolds, this, routeOffset]
  induction l with
  | nil => exact fun s _ => ⟨s, rfl⟩
  | cons x rest ih =>
    intro s h
    cases x with
    | load w a =>
      obtain ⟨k, hk⟩ := hc s a h
      obtain ⟨t, ht⟩ := ih (draw s).2 h
      exact ⟨t, by simp only [swiAccesses, busLoad, hk]; exact ht⟩
    | store w a v =>
      obtain ⟨k, hk⟩ := hc s a h
      have hb : busStore w a v s = .ok { s with ioLog := s.ioLog ++ [⟨a, w, trimTo w v⟩] } := by simp only [busStore, hk]
      obtain ⟨u, hu, hp⟩ : ∃ u, cpuStore w a v s = .ok u ∧ u.params = s.params := by
        unfold cpuStore
        rw [hb]
        exact ⟨_, rfl, rfl⟩
      obtain ⟨t, ht⟩ := ih u (hp ▸ h)
      exact ⟨t, by simp only [swiAccesses, hu]; exact ht⟩

/-- A machine with nothing mapped: there the first access of a service faults. -/
theorem unmapped_faults (l : List SwiAccess) (s : State) (h : s.params.route = []) (hl : l ≠ []) :
    swiAccesses l s = .error (.stop (.busFault (match l with
      | .load _ a :: _ => a
      | .store _ a _ :: _ => a
      | [] => 0)) s) := by
  cases l with
  | nil => exact absurd rfl hl
  | cons x rest => cases x <;> (simp only [swiAccesses, cpuStore, busLoad, busStore, classify, h, List.find?_nil]; rfl)

/-- Which branch the external clause takes is the script's: where it makes an access, a machine with nothing mapped faults. -/
theorem test_swi_fault (script : SwiScript) (s : State) (h : s.params.route = []) (hl : script.accesses ≠ []) :
    ∃ r u, runScript script s = .error (.stop r u) :=
  ⟨_, _, by rw [runScript, unmapped_faults _ s h hl]; rfl⟩

theorem test_witness_SwiResult :
    (Starts (shapeOf (.swi .al 5#24)) boot ∧ boot.params.swiMode = .trap) ∧
    (Starts (shapeOf (.tSwi 5#8)) (thumbAt 0x08000100) ∧ (thumbAt 0x08000100).params.swiMode = .trap) ∧
    (Starts (shapeOf (.swi .al 5#24)) allIo ∧ allIo.params.swiMode = .external ∧
      ∃ u, runScript (Config.swiService allIo.draws (.swi32 5#24))
        { allIo with afterUserLdm := false, draws := allIo.draws + 1, swiCalls := allIo.swiCalls ++ [.swi32 5#24] } = .ok u) := by
  refine ⟨⟨starts (by decide), rfl⟩, ⟨starts (by decide), rfl⟩, starts (by decide), rfl, ?_⟩
  obtain ⟨t, ht⟩ := allIo_serves (Config.swiService allIo.draws (.swi32 5#24)).accesses
    { allIo with afterUserLdm := false, draws := allIo.draws + 1, swiCalls := allIo.swiCalls ++ [.swi32 5#24] } rfl
  exact ⟨_, by rw [runScript, ht]; rfl⟩

theorem test_witness_UndefinedTraps :
    (Starts (shapeOf (.und .al 0#20 0#4)) boot ∧ boot.params.undefPolicy = .trap) ∧
    (Starts (shapeOf (.cdp .al 0 0 0 0 0 0)) strict ∧ strict.params.undefPolicy = .fault) ∧
    Starts (shapeOf (.tUnd 0#8)) strict ∧ (∃ n, shapeOf (.und .al 0#20 0#4) = .undefArm .al n) ∧
    (∃ n, shapeOf (.cdp .al 0 0 0 0 0 0) = .undefArm .al n) ∧ shapeOf (.tUnd 0#8) = .tUnd 0#8 :=
  ⟨⟨starts (by decide), rfl⟩, ⟨starts (by decide), rfl⟩, starts (by decide), ⟨_, rfl⟩, ⟨_, rfl⟩, rfl⟩

/-- An ordinary instruction, a SWI and an undefined instruction in User mode. -/
theorem test_witness_UserModePrivilege :
    (inMode .usr boot).cpsr.m = .usr ∧ (∃ t, exec (.msrImm .al false 9 0 0x1F) (inMode .usr boot) = .next t) ∧
    (∃ t, exec (.swi .al 0) (inMode .usr boot) = .next t) ∧ (∃ t, exec (.und .al 0 0) (inMode .usr boot) = .next t) :=
  ⟨rfl, goesOn (by decide), goesOn (by decide), goesOn (by decide)⟩

/-- MRS and MSR of the SPSR in Supervisor mode, and in System mode, which has none. -/
theorem test_witness_SavedStatusResult :
    (Starts (.mrs .al true 0) (inMode .svc strict) ∧ Permits (.mrs .al true 0) (inMode .svc strict)) ∧
    (Starts (.mrs .al true 0) boot ∧ Permits (.mrs .al true 0) boot) ∧
    (Starts (shapeOf (.msrImm .al true 15 0 0xFF)) (inMode .svc strict) ∧
      Permits (shapeOf (.msrImm .al true 15 0 0xFF)) (inMode .svc strict) ∧
      (inMode .svc strict).spsrNow = some 0#32) ∧
    (Starts (shapeOf (.msrReg .al true 1 0)) boot ∧ Permits (shapeOf (.msrReg .al true 1 0)) boot ∧ boot.spsrNow = none) := by
  exact ⟨runs (by decide), runs (by decide), ⟨starts (by decide), permits (by decide), by decide⟩,
    starts (by decide), permits (by decide), by decide⟩

/-- The c byte in System mode naming User mode; in User mode anything; a change of T; a non-mode. -/
theorem test_witness_MsrCpsrResult :
    (Starts (shapeOf (.msrImm .al false 9 0 0x10)) strict ∧ Permits (shapeOf (.msrImm .al false 9 0 0x10)) strict) ∧
    (((Operand2.imm 0 0x10).eval strict).1.getLsbD 5 = strict.cpsr.t ∧
      ((Operand2.imm 0 0x10).eval strict).1.extractLsb' 0 5 = Mode.usr.bits) ∧
    ¬ ((inMode .usr strict).cpsr.m ≠ .usr ∧ (9#4).getLsbD 0 = true) ∧
    (strict.cpsr.m ≠ .usr ∧ (9#4).getLsbD 0 = true ∧ ((Operand2.imm 0 0x30).eval strict).1.getLsbD 5 ≠ strict.cpsr.t) ∧
    ((Operand2.imm 0 0x1E).eval strict).1.getLsbD 5 = strict.cpsr.t ∧
    (∀ m : Mode, ((Operand2.imm 0 0x1E).eval strict).1.extractLsb' 0 5 ≠ m.bits) := by
  refine ⟨runs (by decide), by decide, by decide, by decide, by decide, fun m => ?_⟩
  cases m <;> decide

/-- Amounts 0 and 255, encoded amounts 1 and 31; what R15 reads at boot, A + 8 and A + 12. -/
theorem test_witness_ShifterLaws :
    (0 < 256 ∧ 255 < 256 ∧ 0 < 255 ∧ 31 < 32 ∧ 1#5 ≠ 0#5 ∧ 31#5 ≠ 0#5) ∧
    (∃ ahead8 : RegNum → Word, (∀ r, ahead8 r = if r = 15#4 then boot.pc + 8 else boot.bankReg boot.cpsr.m r) ∧
      ahead8 15 = 0x08000008) ∧
    (∃ ahead12 : RegNum → Word, (∀ r, ahead12 r = if r = 15#4 then boot.pc + 12 else boot.bankReg boot.cpsr.m r) ∧
      ahead12 15 = 0x0800000C) :=
  ⟨by decide, ⟨_, fun _ => rfl, by decide⟩, _, fun _ => rfl, by decide⟩

/-- ADDS R0, R1, #1 and CMP with a should-be-zero Rd of 15. -/
theorem test_witness_DataProcessingResult :
    (Starts (shapeOf (.addImm .al true 1 0 0 1)) strict ∧ Permits (shapeOf (.addImm .al true 1 0 0 1)) strict) ∧ 0#4 ≠ 15#4 ∧
    (Starts (shapeOf (.cmpImm .al 1 15 0 1)) strict ∧ Permits (shapeOf (.cmpImm .al 1 15 0 1)) strict) ∧
    DpOp.isCompare .cmp = true := by
  exact ⟨runs (by decide), by decide, runs (by decide), by decide⟩

/-- Supervisor mode with a Thumb status saved. -/
def calledFromThumb : State := { inMode .svc strict with spsr := { strict.spsr with svc := 0x3F } }

/-- MOV PC, R14; MOVS PC, R14 in Supervisor mode; the same in System mode. -/
theorem test_witness_DataProcessingBranch :
    (Starts (shapeOf (.movShiftImm .al false 0 15 0 .lsl 14)) strict ∧
      Permits (shapeOf (.movShiftImm .al false 0 15 0 .lsl 14)) strict ∧ TargetOk (strict.x 8 14) strict) ∧
    (Starts (shapeOf (.movShiftImm .al true 0 15 0 .lsl 14)) calledFromThumb ∧
      Permits (shapeOf (.movShiftImm .al true 0 15 0 .lsl 14)) calledFromThumb ∧ calledFromThumb.spsrNow = some 0x3F#32 ∧
      ∃ p, Cpsr.unpack 0x3F#32 = .ok p ∧ p.t = true) ∧
    (Starts (shapeOf (.movShiftImm .al true 0 15 0 .lsl 14)) boot ∧
      Permits (shapeOf (.movShiftImm .al true 0 15 0 .lsl 14)) boot ∧ boot.spsrNow = none ∧ boot.params.arm7tdmiAlt = true) :=
  ⟨⟨starts (by decide), permits (by decide), .inr (by decide)⟩,
    ⟨starts (by decide), permits (by decide), by decide, _, rfl, by decide⟩,
    starts (by decide), permits (by decide), by decide, by decide⟩

theorem test_witness_MultiplyResult :
    (Starts (shapeOf (.mul .al true 0 0 2 1)) strict ∧ Permits (shapeOf (.mul .al true 0 0 2 1)) strict) ∧
    (Starts (shapeOf (.mla .al false 0 3 2 1)) strict ∧ Permits (shapeOf (.mla .al false 0 3 2 1)) strict) ∧
    Permits (.tMul 1 0) strict ∧ Permits (.tMul 0 0) boot :=
  ⟨runs (by decide), runs (by decide), permits (by decide), permits (by decide)⟩

theorem test_witness_LongMultiplyResult :
    (Starts (shapeOf (.umull .al true 1 0 3 2)) strict ∧ Permits (shapeOf (.umull .al true 1 0 3 2)) strict) ∧
    (Starts (shapeOf (.smlal .al false 1 0 3 2)) strict ∧ Permits (shapeOf (.smlal .al false 1 0 3 2)) strict) :=
  ⟨runs (by decide), runs (by decide)⟩

theorem test_witness_BranchResult :
    (shapeOf (.bl .al 0x3E#24) = .branch .al true 0x3E#24 ∧ Starts (shapeOf (.bl .al 0x3E#24)) strict) ∧
    shapeOf (.tBne 0x80#8) = .tBranchIf .ne 0x80#8 ∧ shapeOf (.tB 0x400#11) = .tB 0x400#11 :=
  ⟨⟨rfl, starts (by decide)⟩, rfl, rfl⟩

/-- A Thumb target; an ARM target that is a multiple of 4; a misaligned one with the alternatives. -/
theorem test_witness_ExchangeResult :
    Starts (shapeOf (.bx .al 0)) strict ∧ Starts (shapeOf (.tBx 0 0)) (thumbAt 0) ∧ shapeOf (.bx .al 0) = .bx .al 0 ∧
    shapeOf (.tBx 0 0) = .tBx 0 ∧
    ((setRegs strict [(0, 1)]).x 8 0).getLsbD 0 = true ∧ TargetOk ((setRegs strict [(0, 4)]).x 8 0) strict ∧
    TargetOk ((setRegs boot [(0, 2)]).x 8 0) boot :=
  ⟨starts (by decide), starts (by decide), rfl, rfl, by decide, .inr (by decide), .inl (by decide)⟩

theorem test_witness_ThumbLongBranch : ∃ t, exec (.tBlPrefix 0x7FF#11) (thumbAt 0x08000100) = .next t := ⟨_, rfl⟩

theorem test_witness_ThumbAluResult :
    shapeOf (.tNeg 1 0) = .tAlu .sub 0 (.imm 0#32) (.reg 1) ∧ shapeOf (.tCmpImm8 0 255) = .tAlu .cmp 0 (.reg 0) (.imm 255#32) := by
  decide

theorem test_witness_ThumbShiftResult :
    shapeOf (.tLsrImm 0 1 0) = .tShift .lsr (.imm 0) 1 0 ∧ shapeOf (.tRorReg 1 0) = .tShift .ror (.reg 1) 0 0 := by decide

theorem test_witness_ThumbHiResult :
    Permits (.tHi .add 8 0) strict ∧ Permits (.tHi .add 15 15) strict ∧ Permits (.tHi .mov 0 8) strict ∧
    Permits (.tHi .cmp 8 0) strict ∧ Permits (.tHi .cmp 15 0) boot :=
  ⟨permits (by decide), permits (by decide), permits (by decide), permits (by decide), permits (by decide)⟩

/-- The bytes of `ram` with R1 at the last word of it, misaligned, and R13 at its start. -/
def loads : State := setRegs { ram with params := strict.params } [(1, 0x03000007), (13, 0x03000000)]

theorem test_witness_WordLoadRotates :
    ((∃ w s', busLoad .word (0x03000007#32 &&& 0xFFFFFFFC#32) loads = .ok (w, s')) ∧
      busLoad .word (0x03000009#32 &&& 0xFFFFFFFC#32) loads = .error (.stop (.unwrittenRead 0x03000008#32) loads)) ∧
    (Starts (shapeOf (.ldrtImm .al true 1 0 4)) loads ∧ Permits (shapeOf (.ldrtImm .al true 1 0 4)) loads ∧ 0#4 ≠ 15#4 ∧
      ∃ w s', busLoad .word (0x03000007#32 &&& 0xFFFFFFFC#32) loads.begun = .ok (w, s')) ∧
    (Starts (shapeOf (.swp .al 1 0 2)) loads ∧ ∃ t, exec (.swp .al 1 0 2) loads = .next t) ∧
    (shapeOf (.tLdrReg 0 1 2) = .tTransfer .ldr 2 (.regs 0 1) ∧
      ∃ w s', busLoad .word ((TAddr.regs 0 1).value loads &&& 0xFFFFFFFC#32) loads.begun = .ok (w, s')) :=
  ⟨⟨servedPair (by decide), rfl⟩, ⟨starts (by decide), permits (by decide), by decide, servedPair (by decide)⟩,
    ⟨starts (by decide), goesOn (by decide)⟩, rfl, servedPair (by decide)⟩

/-- The last bytes of a word, aligned and odd. -/
theorem test_witness_LoadsFromMemory :
    (∀ j < 4, classify boot.params ((0x03000007#32 &&& 0xFFFFFFFC#32) + BitVec.ofNat 32 j) = some (.ram, 0x03000004 + j)) ∧
    (∀ j < 4, Memory.read ram.mem (0x03000004 + j) = some ([0x55#8, 0x66#8, 0x77#8, 0x88#8].getD j 0#8)) ∧
    (0x03000007#32).getLsbD 0 = true ∧ boot.params.arm7tdmiAlt = true ∧ (0x03000006#32).getLsbD 0 = false := by
  and_intros <;> decide

/-- The second clause at an odd halfword, by its alternative, and at the top of the work RAM. -/
theorem test_witness_StoreThenLoad :
    classify boot.params 0x03007FFC#32 = some (.ram, 0x03007FFC) ∧ classify boot.params 0x02FFFFFF#32 = some (.ram, 0x0203FFFF) ∧
    (Transfer.strh.isLoad = false ∧
      classify boot.params (0x03007FFF#32 - BitVec.ofNat 32 ((0x03007FFF#32).toNat % Transfer.strh.width.bytes)) =
        some (.ram, 0x03007FFE) ∧ (0x03007FFF#32).getLsbD 0 = true ∧ boot.params.arm7tdmiAlt = true) := by
  and_intros <;> decide

/-- The first and last addresses of ROM and of the I/O window, and the hole after it. -/
theorem test_witness_OtherRegions :
    classify boot.params 0x00003FFF#32 = some (.rom, 0x3FFF) ∧ classify boot.params 0x04000000#32 = some (.io, 0) ∧
    classify boot.params 0x040003FF#32 = some (.io, 0x3FF) ∧ classify boot.params 0x04000400#32 = none := by
  and_intros <;> decide

/-- `loads` with the alternatives. -/
def loadsAlt : State := { loads with params := boot.params }

/-- LDR R0, [R1], #-1 and LDR PC, [R13]; the word there is no multiple of 4, which the alternatives allow. -/
theorem test_witness_LoadResult :
    (Starts (shapeOf (.ldrImmPost .al false 1 0 1)) loads ∧ Permits (shapeOf (.ldrImmPost .al false 1 0 1)) loads ∧
      ∃ v s', loadValue .ldr (loads.x 8 1) loads.begun = .ok (v, s')) ∧
    (Starts (shapeOf (.ldrImmPre .al true false 13 15 0)) loadsAlt ∧
      Permits (shapeOf (.ldrImmPre .al true false 13 15 0)) loadsAlt ∧
      (∃ v s', loadValue .ldr (loadsAlt.x 8 13 + 0) loadsAlt.begun = .ok (v, s')) ∧ (∀ v, TargetOk v loadsAlt)) :=
  ⟨⟨starts (by decide), permits (by decide), servedPair (by decide)⟩,
    starts (by decide), permits (by decide), servedPair (by decide), fun _ => .inl (by decide)⟩

/-- STRB R0, [R1, #-1]! and STR PC, [R1]. -/
theorem test_witness_StoreResult :
    (Starts (shapeOf (.strbImmPre .al false true 1 0 1)) loads ∧ Permits (shapeOf (.strbImmPre .al false true 1 0 1)) loads ∧
      ∃ s', storeValue .strb (loads.x 8 1 - 1) (loads.bankReg loads.cpsr.m 0) loads.begun = .ok s') ∧
    (Starts (shapeOf (.strImmPre .al true false 1 15 0)) loads ∧ Permits (shapeOf (.strImmPre .al true false 1 15 0)) loads ∧
      ∃ s', storeValue .str (loads.x 8 1 + 0) (loads.pc + 12) loads.begun = .ok s') :=
  ⟨⟨starts (by decide), permits (by decide), served (by decide)⟩, starts (by decide), permits (by decide), served (by decide)⟩

theorem test_witness_SwapResult :
    Starts (shapeOf (.swp .al 1 0 2)) loads ∧ Permits (shapeOf (.swp .al 1 0 2)) loads ∧
    (∃ v s1, loadValue .ldr (loads.bankReg loads.cpsr.m 1) loads.begun = .ok (v, s1) ∧
      ∃ s2, storeValue .str (loads.bankReg loads.cpsr.m 1) (loads.bankReg loads.cpsr.m 2) s1 = .ok s2) :=
  ⟨starts (by decide), permits (by decide), _, _, rfl, _, rfl⟩

/-- At the last byte written, and a store through SP. -/
theorem test_witness_ThumbTransferResult :
    (shapeOf (.tLdrbOff 0 1 0) = .tTransfer .ldrb 0 (.off 0 0 1) ∧
      ∃ v s', loadValue .ldrb ((TAddr.off 0 0 1).value loads) loads.begun = .ok (v, s')) ∧
    (shapeOf (.tStrSp 0 255) = .tTransfer .str 0 (.sp 255) ∧
      ∃ s', storeValue .str ((TAddr.sp 255).value loads) (loads.bankReg loads.cpsr.m (LowReg.num 0)) loads.begun = .ok s') :=
  ⟨⟨rfl, servedPair (by decide)⟩, rfl, served (by decide)⟩

/-- Sixteen words that end at the top of the work RAM. -/
theorem test_witness_BlockWords :
    ∀ k < (List.replicate 16 0#32).length,
      classify boot.params (alignWord (0x03007FC0#32 + BitVec.ofNat 32 (4 * k))) = some (.ram, 0x03007FC0 + 4 * k) := by
  decide

/-- `loads` in Supervisor mode, with a base in R0 and in R13_svc, and a User status saved. -/
def svcLoads : State :=
  { setRegs (inMode .svc loads) [(0, 0x03000000), (13, 0x03000000)] with spsr := { loads.spsr with svc := 0x30 } }

/-- `loads` with the pc so that R15 reads the start of its bytes. -/
def pcLoads : State := { loads with pc := 0x02FFFFF8 }

/-- LDMIA R13!, {R0, R1}, LDMIA R0, {R1, R14}^ in Supervisor mode, and LDMIA R15!, {R0} at 0x03000000 - 8. -/
theorem test_witness_BlockLoadResult :
    (Starts (shapeOf (.ldmia .al false true 13 3)) loads ∧ Permits (shapeOf (.ldmia .al false true 13 3)) loads ∧
      (3#16).getLsbD 15 = false ∧ 3#16 ≠ 0#16 ∧
      (∃ vs s', loadWords (BlockMode.ia.start (loads.x 8 13) (regList 3).length) (regList 3).length loads.begun = .ok (vs, s')) ∧
      (∀ r ∈ regList 3, physIndex loads.cpsr.m 13 ≠ physIndex loads.cpsr.m r)) ∧
    (Starts (shapeOf (.ldmia .al true false 0 0x4002)) svcLoads ∧ Permits (shapeOf (.ldmia .al true false 0 0x4002)) svcLoads ∧
      (0x4002#16).getLsbD 15 = false ∧ 0x4002#16 ≠ 0#16 ∧
      (∃ vs s', loadWords (BlockMode.ia.start (svcLoads.x 8 0) (regList 0x4002).length) (regList 0x4002).length svcLoads.begun =
        .ok (vs, s'))) ∧
    (Starts (shapeOf (.ldmia .al false true 15 1)) pcLoads ∧ Permits (shapeOf (.ldmia .al false true 15 1)) pcLoads ∧
      (1#16).getLsbD 15 = false ∧ 1#16 ≠ 0#16 ∧
      (∃ vs s', loadWords (BlockMode.ia.start (pcLoads.x 8 15) (regList 1).length) (regList 1).length pcLoads.begun =
        .ok (vs, s'))) :=
  ⟨⟨starts (by decide), permits (by decide), by decide, by decide, servedPair (by decide), by decide⟩,
    ⟨starts (by decide), permits (by decide), by decide, by decide, servedPair (by decide)⟩,
    starts (by decide), permits (by decide), by decide, by decide, servedPair (by decide)⟩

/-- LDMIA R13!, {R0, PC} with S = 0, with S = 1 in a mode with an SPSR (to Thumb state) and in one without; the empty list. -/
theorem test_witness_BlockLoadPcResult :
    (Starts (shapeOf (.ldmia .al false true 13 0x8001)) loadsAlt ∧ Permits (shapeOf (.ldmia .al false true 13 0x8001)) loadsAlt ∧
      (∃ vs s', loadWords (BlockMode.ia.start (loadsAlt.x 8 13) (regList 0x8001).length) (regList 0x8001).length loadsAlt.begun =
        .ok (vs, s') ∧ vs.getLast? = some 0x88776655#32) ∧
      loadsAlt.spsrNow = none ∧ loadsAlt.params.arm7tdmiAlt = true ∧ loadsAlt.cpsr.t = false ∧ ∀ v, TargetOk v loadsAlt) ∧
    (Starts (shapeOf (.ldmia .al true true 13 0x8001)) svcLoads ∧ Permits (shapeOf (.ldmia .al true true 13 0x8001)) svcLoads ∧
      (∃ vs s', loadWords (BlockMode.ia.start (svcLoads.x 8 13) (regList 0x8001).length) (regList 0x8001).length svcLoads.begun =
        .ok (vs, s') ∧ vs.getLast? = some 0x88776655#32) ∧
      svcLoads.spsrNow = some 0x30#32 ∧ svcLoads.cpsr.t = false ∧ ∃ p, Cpsr.unpack 0x30#32 = .ok p ∧ p.t = true) ∧
    (Starts (shapeOf (.ldmia .al true false 13 0x8001)) loadsAlt ∧ Permits (shapeOf (.ldmia .al true false 13 0x8001)) loadsAlt) ∧
    (Starts (shapeOf (.ldmia .al false false 13 0)) loadsAlt ∧ Permits (shapeOf (.ldmia .al false false 13 0)) loadsAlt ∧
      ∃ v s', busLoad .word (alignWord (BlockMode.ia.start (loadsAlt.x 8 13) 16)) loadsAlt.begun = .ok (v, s')) :=
  ⟨⟨starts (by decide), permits (by decide), ⟨_, _, rfl, by decide⟩, by decide, by decide, by decide, fun _ => .inl (by decide)⟩,
    ⟨starts (by decide), permits (by decide), ⟨_, _, rfl, by decide⟩, by decide, by decide, _, rfl, by decide⟩,
    ⟨starts (by decide), permits (by decide)⟩, starts (by decide), permits (by decide), servedPair (by decide)⟩

/-- STMDB R13!, {R0, R13, PC} with the alternatives, STMIA R1!, {R1, R2} without, and the empty list. -/
theorem test_witness_BlockStoreResult :
    (Starts (shapeOf (.stmdb .al false true 13 0xA001)) loadsAlt ∧ Permits (shapeOf (.stmdb .al false true 13 0xA001)) loadsAlt ∧
      ∃ s', storeWords (BlockMode.db.start (loadsAlt.x 8 13) 3)
        [loadsAlt.bankReg loadsAlt.cpsr.m 0, BlockMode.db.writeBack (loadsAlt.x 8 13) 3, loadsAlt.pc + 12] loadsAlt.begun = .ok s') ∧
    (Starts (shapeOf (.stmia .al false true 1 6)) loads ∧ Permits (shapeOf (.stmia .al false true 1 6)) loads ∧
      ∃ s', storeWords (BlockMode.ia.start (loads.x 8 1) 2) [loads.bankReg loads.cpsr.m 1, loads.bankReg loads.cpsr.m 2]
        loads.begun = .ok s') ∧
    (Starts (shapeOf (.stmia .al false false 13 0)) loadsAlt ∧ Permits (shapeOf (.stmia .al false false 13 0)) loadsAlt ∧
      ∃ s', storeWords (BlockMode.ia.start (loadsAlt.x 8 13) 16) [loadsAlt.pc + 12] loadsAlt.begun = .ok s') :=
  ⟨⟨starts (by decide), permits (by decide), served (by decide)⟩, ⟨starts (by decide), permits (by decide), served (by decide)⟩,
    starts (by decide), permits (by decide), served (by decide)⟩

/-- PUSH {LR}, and POP {R0, PC} from the start of `ram`, which leaves R14. -/
theorem test_witness_StackResult :
    ((0#8 ≠ 0#8 ∨ true = true) ∧
      ∃ s', storeWords (loads.bankReg loads.cpsr.m 13#4 - BitVec.ofNat 32 (4 * stackCount true 0#8))
        [loads.bankReg loads.cpsr.m 14#4] loads.begun = .ok s') ∧
    ((1#8 ≠ 0#8 ∨ true = true) ∧
      ∃ vs s', loadWords (loads.bankReg loads.cpsr.m 13#4) (stackCount true 1#8) loads.begun = .ok (vs, s') ∧
        vs.getLast? = some 0x88776655#32) ∧
    (14#4 ≠ 15#4 ∧ physIndex .sys 14#4 ≠ physIndex loads.cpsr.m 13#4 ∧
      ∀ q ∈ lowList 1, physIndex .sys 14#4 ≠ physIndex loads.cpsr.m q) :=
  ⟨⟨by decide, served (by decide)⟩, ⟨by decide, _, _, rfl, by decide⟩, by decide⟩

/-- STMIA with the base lowest in the list, LDMIA with the base in it and not in it. -/
theorem test_witness_ThumbBlockResult :
    (Permits (.tBlock false 1 6) loads ∧
      ∃ s', storeWords (loads.bankReg loads.cpsr.m (LowReg.num 1)) [loads.bankReg loads.cpsr.m 1, loads.bankReg loads.cpsr.m 2]
        loads.begun = .ok s') ∧
    (Permits (.tBlock true 1 2) loads ∧
      ∃ vs s', loadWords (loads.bankReg loads.cpsr.m (LowReg.num 1)) (lowList 2).length loads.begun = .ok (vs, s')) ∧
    Permits (.tBlock true 1 1) loads ∧ (1#8).getLsbD ((1 : LowReg).toNat) = false :=
  ⟨⟨permits (by decide), served (by decide)⟩, ⟨permits (by decide), servedPair (by decide)⟩, permits (by decide), by decide⟩

/-- A store and an address it does not reach; a compare. -/
theorem test_witness_MemoryFrame :
    (∃ t, exec (.strImmPre .al true false 1 0 0) loads = .next t) ∧
    (shapeOf (.strImmPre .al true false 1 0 0)).callsService loads = false ∧
    (∀ q ∈ (shapeOf (.strImmPre .al true false 1 0 0)).storesTo loads, q = (.word, 0x03000004#32)) ∧
    ¬ Touches loads.params .word 0x03000004#32 0x03000008#32 ∧
    (∃ t, exec (.cmpImm .al 1 0 0 1) loads = .next t) ∧ (shapeOf (.cmpImm .al 1 0 0 1)).storesTo loads = [] := by
  refine ⟨goesOn (by decide), by decide, by decide, ?_, goesOn (by decide), rfl⟩
  have h1 : classify loads.params 0x03000004#32 = some (.ram, 0x03000004) := by decide
  have h2 : classify loads.params 0x03000008#32 = some (.ram, 0x03000008) := by decide
  simp only [Touches, h1, h2]
  decide

theorem test_witness_RegisterFrame :
    (∃ t, exec (.addImm .al true 1 0 0 1) boot = .next t) ∧ 2#4 ≠ 15#4 ∧
    (∀ q ∈ (shapeOf (.addImm .al true 1 0 0 1)).writes boot, q.2 ≠ 15#4 → physIndex .sys 2#4 ≠ physIndex q.1 q.2) :=
  ⟨goesOn (by decide), by decide, by decide⟩

theorem test_witness_StatusFrame :
    (∃ t, exec (.addImm .al false 1 0 0 1) boot = .next t) ∧ (shapeOf (.addImm .al false 1 0 0 1)).writesCpsr boot = false ∧
    (shapeOf (.addImm .al false 1 0 0 1)).writesSpsr boot = false := ⟨goesOn (by decide), by decide, by decide⟩

/-- `loads` with the last two words of the I/O window as base: the third word of a block transfer is at an unmapped address. -/
def blockFaults : State := setRegs loads [(1, 0x040003F8)]

/-- A "fault always" case with the alternatives, and another case without them; a block store and a block load that fault on
their third word (R900), the store leaving the first two records. -/
theorem test_witness_FaultsStop :
    (Starts (shapeOf (.mul .al false 15 0 1 2)) boot ∧ ¬ Permits (shapeOf (.mul .al false 15 0 1 2)) boot) ∧
    (Starts (shapeOf (.mul .al false 2 0 1 2)) strict ∧ ¬ Permits (shapeOf (.mul .al false 2 0 1 2)) strict) ∧
    (∃ r t, exec (.stmia .al false false 1 7) blockFaults = .fault (.stop r t)) ∧
    (∃ r t, storeWords 0x040003F8 [1, 2, 3] blockFaults = .error (.stop r t)) ∧
    (∃ r t, loadWords 0x03000000 3 loads = .error (.stop r t)) ∧
    (shapeOf (.stmia .al false false 1 7) = .block false .ia .al false false 1 7 ∧ 7#16 ≠ 0#16 ∧
      Starts (shapeOf (.stmia .al false false 1 7)) blockFaults ∧ Permits (shapeOf (.stmia .al false false 1 7)) blockFaults) ∧
    (match exec (.stmia .al false false 1 7) blockFaults with
      | .fault (.stop r t) => some (r, t.ioLog.map (·.addr), t.pc)
      | _ => none) = some (.busFault 0x04000400, [0x040003F8, 0x040003FC], blockFaults.pc) := by
  refine ⟨⟨starts (by decide), ?_⟩, ⟨starts (by decide), ?_⟩, ⟨_, _, rfl⟩, ⟨_, _, rfl⟩, ⟨_, _, rfl⟩,
    ⟨rfl, by decide, starts (by decide), permits (by decide)⟩, by decide⟩
  · exact fun h => absurd h.1 (by decide)
  · exact fun h => h.2.elim (fun h => absurd h (by decide)) (fun h => absurd h (by decide))

/-- R902: MulPc is reported before the hazard of R972. -/
theorem test_fault_order :
    faultOf (exec (.mul .al false 15 0 1 13) { strict with afterUserLdm := true, cpsr := { strict.cpsr with m := .svc } }) =
      some (.unpredictable .mulPc) := by decide

/-- The boot state with another chip. -/
def withChip (k : SaveKind) : State := { boot with params := { boot.params with saveKind := k } }

/-- The idle chip, and the chip after the erase prefix, at the first and the last offset; an access routed to each part. -/
theorem test_witness_FlashWrites :
    ((Save.powerOn []).flash.command = .none ∧ (Save.powerOn []).flash.pendingCommand = false ∧
      (Save.powerOn []).flash.unlock ≠ 2 ∧ 0xFFFF < 0x10000 ∧ 0 < 0x10000) ∧
    (flashRun .flash128 (Save.powerOn []) (unlock ++ [(0x5555, 0x80)] ++ unlock)).flash.command = .erase ∧
    classify (withChip .flash64).params 0x0E005555#32 = some (.save, 0x5555) ∧ (withChip .flash64).params.saveKind = .flash64 ∧
    classify (withChip .flash128).params 0x0E00FFFF#32 = some (.save, 0xFFFF) ∧
    (withChip .flash128).params.saveKind = .flash128 := by
  and_intros <;> decide

/-- Each chip with a width it takes and one it does not. -/
theorem test_witness_SavedataWidths :
    classify (withChip .flash64).params 0x0E000000#32 = some (.save, 0) ∧ Width.half ≠ .byte ∧
    ((withChip .flash64).params.saveKind ≠ .eeprom ∧ Width.byte = .byte) ∧
    classify (withChip .eeprom).params 0x0D000000#32 = some (.save, 0) ∧ Width.word ≠ .half ∧
    ((withChip .eeprom).params.saveKind = .eeprom ∧ Width.half = .half) ∧
    classify (withChip .sram).params 0x0E007FFC#32 = some (.save, 0x7FFC) ∧ 0x7FFC + Width.word.bytes ≤ boot.params.sramSize := by
  and_intros <;> decide

/-- A chip in a protocol state. -/
def eepromAt (e : Eeprom) : Save := { Save.powerOn [] with eeprom := e }

/-- Every point of the store protocol: NULL, the second header bit with a width to latch (6, 14, none) and one latched, the
address bits of a write and the last of them in range (block 63 of 512 bytes) and beyond it (block 64), the first and the last
data bit, the stop bit; the same of a read. -/
theorem test_witness_EepromProtocol :
    ((eepromAt ⟨.null, 0, 0, 0, 0, 0⟩).eeprom.command = .null ∧ (eepromAt ⟨.read, 6, 0, 1, 0, 0⟩).eeprom.command = .read) ∧
    ((((70 : Nat) : Int) - (if false then 3 else 67) ≠ 6) ∧ (((70 : Nat) : Int) - (if false then 3 else 67) ≠ 14)) ∧
    (((73 : Nat) : Int) - (if false then 3 else 67) = (6 : Nat) ∧ ((17 : Nat) : Int) - (if true then 3 else 67) = (14 : Nat)) ∧
    ((eepromAt ⟨.pending, 0, 0, 0, 0, 0⟩).eeprom.addressBits = 0 ∧ (eepromAt ⟨.pending, 6, 0, 0, 0, 0⟩).eeprom.addressBits = 6) ∧
    ([(67 : Int), 66, 65, 2, 1].map (· - 1) = [66, 65, 64, 1, 0]) ∧
    (8 * ((63 <<< 6) / 64) + 8 ≤ boot.params.eepromSize ∧ boot.params.eepromSize < 8 * ((64 <<< 6) / 64) + 8) ∧
    ([(3 : Int), 2, 1].map (· - 1) = [2, 1, 0]) := by
  and_intros <;> decide

/-- The load protocol where its clauses meet, at 68, 65, 64 and 1 bits to go, and outside a read; an access routed to the chip. -/
theorem test_witness_EepromLoads :
    ([68, 65, 64, 1].all (fun n => decide (1 ≤ n) && decide (n ≤ 68) &&
      decide ((eepromAt ⟨.read, 6, 0, n, 192, 0⟩).eeprom.command = .read) &&
      decide ((eepromAt ⟨.read, 6, 0, n, 192, 0⟩).eeprom.readBitsRemaining = n)) = true ∧
      (64 < 68 ∧ 64 < 65 ∧ 64 ≤ 64 ∧ 1 ≤ 64)) ∧
    (eepromAt ⟨.null, 0, 0, 0, 0, 0⟩).eeprom.command ≠ .read ∧
    (classify (withChip .eeprom).params 0x0D000002#32 = some (.save, 2) ∧ (withChip .eeprom).params.saveKind = .eeprom) ∧
    ((eepromStore16 boot.params 9 (Save.powerOn []) true).map (fun x => x.eeprom.command) = .ok .pending) ∧
    ((eepromStore16 boot.params 70 (eepromAt ⟨.pending, 0, 0, 0, 0, 0⟩) false).map (fun x => x.eeprom.command) =
      .error (.eepromAddressWidth 3)) := by
  and_intros <;> decide

/-- The last word of VRAM, the first place beyond it, a misaligned place; a byte store to OAM and to palette under each setting;
an access routed to each region, at its last byte or beyond it. -/
theorem test_witness_ProxyStore :
    (0x17FFC % Width.word.bytes = 0 ∧ 0x17FFC + Width.word.bytes ≤ proxySize boot.params .vram) ∧
    ¬ (0x18000 % Width.word.bytes = 0 ∧ 0x18000 + Width.word.bytes ≤ proxySize boot.params .vram) ∧
    ¬ (2 % Width.word.bytes = 0 ∧ 2 + Width.word.bytes ≤ proxySize boot.params .vram) ∧
    (0x3FF % Width.byte.bytes = 0 ∧ 0x3FF + Width.byte.bytes ≤ proxySize boot.params .oam ∧
      0x3FF + Width.byte.bytes ≤ proxySize boot.params .palette) ∧
    boot.params.proxyByteStore = .single ∧
    ({ boot.params with proxyByteStore := .mirrorHalfword } : Params).proxyByteStore = .mirrorHalfword ∧
    (classify boot.params 0x050003FF#32 = some (.palette, 0x3FF) ∧ classify boot.params 0x06017FFC#32 = some (.vram, 0x17FFC) ∧
      classify boot.params 0x070003FF#32 = some (.oam, 0x3FF)) := by
  and_intros <;> decide

/-- With mirrored byte stores one to OAM changes nothing, one to palette writes both bytes and marks palette alone. -/
theorem test_byte_store :
    let p : Params := { boot.params with proxyByteStore := .mirrorHalfword }
    proxyStore p Proxy.constructed .oam 1 .byte 0xAB = .ok Proxy.constructed ∧
    (proxyStore p Proxy.constructed .palette 1 .byte 0xAB).map
      (fun x => (x.palette, x.dirtyPalette, x.dirtyOam, x.dirtyVram)) = .ok ([(0, 0xAB), (1, 0xAB)], true, false, []) := by
  and_intros <;> decide

/-- A proxy with a mark, a clean one, and one whose frames are skipped. -/
theorem test_witness_RenderFrames :
    (Proxy.constructed.skipFrame = false ∧ Proxy.constructed.clean = true) ∧
    ({ Proxy.constructed with dirtyPalette := true } : Proxy).clean = false ∧
    ({ Proxy.constructed with skipFrame := true, delay := 1 } : Proxy).skipFrame = true ∧
    (({ Proxy.constructed with skipFrame := true, delay := 1 } : Proxy).startDraw boot.params).skipFrame = true ∧
    (({ Proxy.constructed with skipFrame := true, delay := 0 } : Proxy).startDraw boot.params).skipFrame = false ∧
    (Proxy.constructed.awaiting = 0 ∧ 0 < Proxy.constructed.finishDraw.awaiting) := by
  and_intros <;> decide

end Sys2Proof.Tests
end

section
/-! PROOFS. Power-on and reset (O11, O13). -/

namespace Sys2Proof.Machine

theorem ProxyOk.constructed (p : Params) : ProxyOk p Proxy.constructed :=
  ⟨rfl, rfl, rfl, rfl, rfl, rfl, rfl, rfl, fun _ => rfl⟩

theorem Save.wf_powerOn (p : Params) (image : List Byte) : (Save.powerOn image).wf p = true :=
  Save.wf_iff.mpr ⟨Save.powerOn_wf image, .inr rfl, .inl rfl⟩

/-- Power-on with even region sizes is in the invariant. -/
theorem State.powerOn_inv {p : Params} (h : p.paletteSize % 2 = 0 ∧ p.vramSize % 2 = 0) : (State.powerOn p).Inv := by
  obtain ⟨hparams, hmem, hsave, hproxy, hschedule, hpc⟩ := State.powerOn_fields p
  constructor
  case sizes => rwa [hparams]
  case pc => exact hpc
  case mem => rw [hmem]; rfl
  case save => rw [hparams, hsave]; exact Save.wf_powerOn p p.initialImage
  case proxy => rw [hparams, hproxy]; exact Proxy.wf_iff.mpr (ProxyOk.constructed p)
  case schedule => rw [hschedule]; rfl

/-- Settles O11: `State.reset` is the power-on with R12's defaults, whose region sizes are even. -/
theorem resetInv : Obligations.ResetInv :=
  ⟨State.powerOn_resetParams ▸ State.powerOn_inv (by decide), fun _ h => State.powerOn_inv h⟩

/-- What hwReset leaves (R150). -/
theorem resetCpu_hwReset {s : State} (h : s.params.bootProfile = .hwReset) :
    resetCpu s = { s with
      spsr := ⟨0, 0, 0, 0, 0⟩, afterUserLdm := false, stale := [], regs := Vector.replicate 30 0#32, pc := 0
      cpsr := { n := false, z := false, c := false, v := false, i := true, f := true, t := false, m := .svc } } := by
  simp only [resetCpu, h]

/-- What directBoot leaves (R151). -/
theorem resetCpu_directBoot {s : State} (h : s.params.bootProfile = .directBoot) :
    resetCpu s = { s with
      spsr := ⟨0, 0, 0, 0, 0⟩, afterUserLdm := false, stale := [], regs := directBootRegs, pc := 0x08000000
      cpsr := { n := false, z := false, c := false, v := false, i := false, f := false, t := false, m := .sys } } := by
  simp only [resetCpu, h]

/-- A second reset of the CPU unit changes nothing. -/
theorem resetCpu_resetCpu (s : State) : resetCpu (resetCpu s) = resetCpu s := by
  cases h : s.params.bootProfile with
  | hwReset =>
    rw [resetCpu_hwReset h]
    exact resetCpu_hwReset h
  | directBoot =>
    rw [resetCpu_directBoot h]
    exact resetCpu_directBoot h

/-- System mode, every flag clear (R119, R151). -/
theorem packed_sys : Cpsr.pack ⟨false, false, false, false, false, false, false, .sys⟩ = 0x0000001F#32 := by decide

/-- Settles O13. The units are as constructed whatever the boot profile is (`State.powerOn_fields`); the CPU unit is what
`resetCpu` leaves under each profile. -/
theorem resetState : Obligations.ResetState := by
  refine ⟨fun p => ?_, fun s hboot => ?_, rfl, rfl, rfl, rfl, rfl, rfl, rfl, rfl, rfl, rfl, rfl, rfl, rfl⟩
  · obtain ⟨hparams, hmem, hsave, hproxy, -, -⟩ := State.powerOn_fields p
    rw [hsave, hproxy]
    refine ⟨hparams, hmem, rfl, rfl, rfl, fun _ _ => Save.read_powerOn p.initialImage, fun _ => ⟨rfl, rfl, rfl⟩,
      rfl, rfl, rfl, rfl, rfl, rfl, fun hboot => ?_, fun _ => resetCpu_resetCpu _⟩
    rw [State.powerOn, resetCpu_hwReset hboot]
    exact ⟨rfl, rfl, rfl, rfl, rfl⟩
  · rw [resetCpu_directBoot hboot]
    refine ⟨fun m i hi => ?_, rfl, packed_sys, rfl⟩
    show directBootRegs[physIndex m i] = _
    revert i
    cases m <;> decide

end Sys2Proof.Machine
end

section
/-! PROOFS. The frame of the status registers (O54): which operations write the CPSR or an SPSR. -/

namespace Sys2Proof.Machine

/-! ### The relation -/

/-- `t` has the status registers of `s`: the CPSR unless `c` says that it may be written, the SPSRs unless `sp` does. -/
structure StatusKept (c sp : Bool) (s t : State) : Prop where
  cpsr : c = false → t.cpsr = s.cpsr
  spsr : sp = false → t.spsr = s.spsr

/-- Both status registers are as they were. -/
theorem StatusKept.same {c sp : Bool} {s t : State} (hc : t.cpsr = s.cpsr) (hs : t.spsr = s.spsr) : StatusKept c sp s t :=
  ⟨fun _ => hc, fun _ => hs⟩

/-- Only the CPSR is written. -/
theorem StatusKept.writesCpsr {sp : Bool} {s t : State} (hs : t.spsr = s.spsr) : StatusKept true sp s t :=
  ⟨nofun, fun _ => hs⟩

/-- Only the SPSRs are written. -/
theorem StatusKept.writesSpsr {c : Bool} {s t : State} (hc : t.cpsr = s.cpsr) : StatusKept c true s t :=
  ⟨fun _ => hc, nofun⟩

/-- An exception writes both. -/
theorem StatusKept.writesBoth (s t : State) : StatusKept true true s t := ⟨nofun, nofun⟩

theorem MemRel.status {c sp : Bool} {s t : State} (h : MemRel s t) : StatusKept c sp s t := .same h.cpsr h.spsr

theorem StatusKept.trans {c sp : Bool} {s t u : State} (h : StatusKept c sp s t) (h' : StatusKept c sp t u) :
    StatusKept c sp s u :=
  ⟨fun hc => (h'.cpsr hc).trans (h.cpsr hc), fun hs => (h'.spsr hs).trans (h.spsr hs)⟩

theorem StatusKept.begun {c sp : Bool} {s t : State} (h : StatusKept c sp s.begun t) : StatusKept c sp s t :=
  ⟨h.cpsr, h.spsr⟩

theorem runArm_status {c sp : Bool} {cond : Cond} {regs : List RegNum} {checks : State → Except Fault Unit}
    {body : State → Except Fault State} {s t : State} (hb : ∀ t, body s.begun = .ok t → StatusKept c sp s.begun t)
    (h : runArm cond regs checks body s = .next t) : StatusKept c sp s t := by
  rcases runArm_next h with ⟨-, rfl⟩ | ⟨-, -, h⟩
  · exact .same rfl rfl
  · exact (hb t h).begun

theorem runThumb_status {c sp : Bool} {body : State → Except Fault State} {s t : State}
    (hb : ∀ t, body s.begun = .ok t → StatusKept c sp s.begun t) (h : runThumb body s = .next t) : StatusKept c sp s t :=
  (hb t (runThumb_next.mp h)).begun

/-- A Thumb instruction whose body never faults. -/
theorem runThumb_total_status {c sp : Bool} {f : State → State} {s t : State} (hf : StatusKept c sp s.begun (f s.begun))
    (h : runThumb (fun s => .ok (f s)) s = .next t) : StatusKept c sp s t := by
  cases runThumb_next.mp h
  exact hf.begun

/-! ### What each operation does to the status registers -/

theorem branchArm_status {c sp : Bool} {v : Word} {s t : State} (h : branchArm v s = .ok t) : StatusKept c sp s t := by
  rw [branchArm_eq h]
  exact .same rfl rfl

theorem returnFromException_status {sp : Bool} {saved target : Word} {s t : State}
    (h : returnFromException saved target s = .ok t) : StatusKept true sp s t := by
  obtain ⟨p, -, rfl⟩ := returnFromException_eq h
  exact .writesCpsr rfl

theorem exchange_status {sp : Bool} {v : Word} {s t : State} (h : exchange v s = .ok t) : StatusKept true sp s t := by
  rw [branchByT_eq h]
  exact .writesCpsr rfl

theorem dpWrite_status {op : DpOp} {f sp : Bool} {rd : RegNum} {out : AluOut} {s t : State}
    (h : dpWrite op f rd out s = .ok t) : StatusKept f sp s t := by
  cases f with
  | false =>
    simp only [dpWrite, Bool.false_eq_true, if_false] at h
    split at h
    · cases h
      exact .same rfl rfl
    · split at h
      · exact branchArm_status h
      · cases h
        exact .same rfl rfl
  | true =>
    simp only [dpWrite, if_true] at h
    split at h
    · cases h
      exact .writesCpsr rfl
    · split at h
      · simp only [dpReturn] at h
        split at h
        · exact returnFromException_status h
        · obtain ⟨u, -, h⟩ := bind_eq_ok.mp h
          exact .writesCpsr (branchArm_status (c := true) h |>.spsr rfl)
      · cases h
        exact .writesCpsr rfl

theorem multiply_status {c : Cond} {f sp : Bool} {rd : RegNum} {acc : Option RegNum} {rs rm : RegNum} {s t : State}
    (h : multiply c f rd acc rs rm s = .next t) : StatusKept f sp s t := by
  refine runArm_status (fun t h => ?_) h
  cases h
  cases f with
  | false => exact .same rfl rfl
  | true => exact .writesCpsr rfl

theorem longMultiply_status {sg acc : Bool} {c : Cond} {f sp : Bool} {rdHi rdLo rs rm : RegNum} {s t : State}
    (h : longMultiply sg acc c f rdHi rdLo rs rm s = .next t) : StatusKept f sp s t := by
  refine runArm_status (fun t h => ?_) h
  cases h
  cases f with
  | false => exact .same rfl rfl
  | true => exact .writesCpsr rfl

theorem moveFromStatus_status {cond : Cond} {spsr : Bool} {rd : RegNum} {c sp : Bool} {s t : State}
    (h : moveFromStatus cond spsr rd s = .next t) : StatusKept c sp s t := by
  refine runArm_status (fun t h => ?_) h
  obtain ⟨v, -, h⟩ := bind_eq_ok.mp h
  cases h
  exact .same rfl rfl

theorem moveToStatus_status {c : Cond} {spsr : Bool} {mask : BitVec 4} {o : Operand2} {s t : State}
    (h : moveToStatus c spsr mask o s = .next t) : StatusKept (!spsr) spsr s t := by
  refine runArm_status (fun t h => ?_) h
  cases spsr with
  | false =>
    obtain ⟨s', h1, h⟩ := bind_eq_ok.mp h
    obtain ⟨p, rfl, -⟩ := writeCpsr_eq h1
    cases h
    exact .writesCpsr rfl
  | true =>
    obtain ⟨s', h1, h⟩ := bind_eq_ok.mp h
    obtain ⟨x, rfl⟩ := writeSpsr_eq h1
    cases h
    exact .writesSpsr rfl

theorem branch_status {cond : Cond} {link : Bool} {off : BitVec 24} {c sp : Bool} {s t : State}
    (h : branch cond link off s = .next t) : StatusKept c sp s t := by
  refine runArm_status (fun t h => ?_) h
  cases h
  cases link <;> exact .same rfl rfl

theorem swap_status {l k : Transfer} {cond : Cond} {rn rd rm : RegNum} {c sp : Bool} {s t : State}
    (h : swap l k cond rn rd rm s = .next t) : StatusKept c sp s t := by
  refine runArm_status (fun t h => ?_) h
  obtain ⟨⟨v, s1⟩, h1, h⟩ := bind_eq_ok.mp h
  obtain ⟨s2, h2, h⟩ := bind_eq_ok.mp h
  cases h
  exact ((loadValue_rel h1).trans (storeValue_rel h2)).status.trans (.same rfl rfl)

theorem writeBackBase_status {c sp : Bool} (x : Indexing) (rn : RegNum) (v : Word) (s : State) :
    StatusKept c sp s (writeBackBase x rn v s) := by
  simp only [writeBackBase]
  split <;> exact .same rfl rfl

theorem finishLoad_status {rd : RegNum} {data : Word} {c sp : Bool} {s t : State} (h : finishLoad rd data s = .ok t) :
    StatusKept c sp s t := by
  simp only [finishLoad] at h
  split at h
  · exact branchArm_status h
  · cases h
    exact .same rfl rfl

theorem transferBody_status {k : Transfer} {x : Indexing} {rn rd : RegNum} {o : Offset} {c sp : Bool} {s t : State}
    (h : transferBody k x rn rd o s = .ok t) : StatusKept c sp s t := by
  simp only [transferBody] at h
  split at h
  · obtain ⟨⟨v, s1⟩, h1, h⟩ := bind_eq_ok.mp h
    exact (loadValue_rel h1).status.trans ((writeBackBase_status x rn _ s1).trans (finishLoad_status h))
  · obtain ⟨s1, h1, h⟩ := bind_eq_ok.mp h
    cases h
    exact (storeValue_rel h1).status.trans ((writeBackBase_status x rn _ s1).trans (.same rfl rfl))

theorem writeBackBlock_status {c sp : Bool} (w : Bool) (rn : RegNum) (v : Word) (s : State) :
    StatusKept c sp s (writeBackBlock w rn v s) :=
  let ⟨_, _, hc, hs⟩ := writeBackBlock_rel w rn v s
  .same hc hs

theorem writeRegs_status {c sp : Bool} (m : Mode) (l : List (RegNum × Word)) (s : State) :
    StatusKept c sp s (writeRegs m l s) :=
  .same (writeRegs_pc m l s).2.1 (writeRegs_pc m l s).2.2

theorem loadPc_status {ub sp : Bool} {v : Word} {s t : State} (h : loadPc ub v s = .ok t) : StatusKept ub sp s t := by
  cases ub with
  | false => exact branchArm_status h
  | true =>
    simp only [loadPc, if_true] at h
    split at h
    · exact returnFromException_status h
    · obtain ⟨u, -, h⟩ := bind_eq_ok.mp h
      exact branchArm_status h

theorem loadMultiple_status {bm : BlockMode} {ub w sp : Bool} {rn : RegNum} {list : BitVec 16} {s t : State}
    (h : loadMultiple bm ub w rn list s = .ok t) : StatusKept (ub && list.getLsbD 15) sp s t := by
  simp only [loadMultiple] at h
  obtain ⟨⟨vs, s1⟩, h1, h⟩ := bind_eq_ok.mp h
  have hm := (loadWords_rel h1).1
  cases hpc : list.getLsbD 15 with
  | false =>
    simp only [hpc, Bool.false_eq_true, if_false, pure_eq_ok] at h
    cases h
    exact hm.status.trans ((writeBackBlock_status w rn _ s1).trans ((writeRegs_status _ _ _).trans (.same rfl rfl)))
  | true =>
    simp only [hpc, if_true] at h
    rw [Bool.and_true]
    exact hm.status.trans ((writeBackBlock_status w rn _ s1).trans ((writeRegs_status _ _ _).trans (loadPc_status h)))

theorem blockLoad_status {bm : BlockMode} {cond : Cond} {ub w sp : Bool} {rn : RegNum} {list : BitVec 16} {s t : State}
    (h : blockLoad bm cond ub w rn list s = .next t) : StatusKept (ub && list.getLsbD 15) sp s t := by
  refine runArm_status (fun t h => ?_) h
  split at h
  · obtain ⟨⟨v, s1⟩, h1, h⟩ := bind_eq_ok.mp h
    exact (busLoad_rel h1).status.trans ((writeBackBlock_status w rn _ s1).trans (branchArm_status h))
  · exact loadMultiple_status h

theorem blockStore_status {bm : BlockMode} {cond : Cond} {ub w : Bool} {rn : RegNum} {list : BitVec 16} {c sp : Bool}
    {s t : State} (h : blockStore bm cond ub w rn list s = .next t) : StatusKept c sp s t := by
  refine runArm_status (fun t h => ?_) h
  obtain ⟨s1, h1, h⟩ := bind_eq_ok.mp h
  cases h
  exact (storeWords_rel h1).status.trans ((writeBackBlock_status w rn _ s1).trans (.same rfl rfl))

theorem softwareInterrupt_status {k : SwiCall} {w : Word} {s t : State} (h : softwareInterrupt k w s = .ok t) :
    StatusKept (s.params.swiMode == .trap) (s.params.swiMode == .trap) s t := by
  rcases softwareInterrupt_cases h with ⟨htrap, -⟩ | ⟨-, s', hs, rfl⟩
  · rw [htrap]
    exact .writesBoth _ _
  · obtain ⟨-, -, hc, hs⟩ := swiService_rel hs
    exact .same hc hs

theorem thumbCompute_status {rd : LowReg} {f : State → AluOut} {sp : Bool} {s t : State}
    (h : thumbCompute rd f s = .next t) : StatusKept true sp s t := runThumb_total_status (.writesCpsr rfl) h

theorem thumbCompare_status {f : State → AluOut} {sp : Bool} {s t : State} (h : thumbCompare f s = .next t) :
    StatusKept true sp s t := runThumb_total_status (.writesCpsr rfl) h

theorem thumbAddress_status {rd : LowReg} {f : State → Word} {c sp : Bool} {s t : State}
    (h : thumbAddress rd f s = .next t) : StatusKept c sp s t := runThumb_total_status (.same rfl rfl) h

theorem thumbHi_status {m d : RegNum} {f : State → Word} {c sp : Bool} {s t : State} (h : thumbHi m d f s = .next t) :
    StatusKept c sp s t := by
  refine runThumb_status (fun t h => ?_) h
  obtain ⟨u, -, h⟩ := bind_eq_ok.mp h
  cases h
  simp only [thumbHiWrite]
  split <;> exact .same rfl rfl

theorem thumbHiCompare_status {m d : RegNum} {sp : Bool} {s t : State} (h : thumbHiCompare m d s = .next t) :
    StatusKept true sp s t := by
  refine runThumb_status (fun t h => ?_) h
  obtain ⟨u, -, h⟩ := bind_eq_ok.mp h
  obtain ⟨u, -, h⟩ := bind_eq_ok.mp h
  cases h
  exact .writesCpsr rfl

theorem thumbMultiply_status {rs rd : LowReg} {sp : Bool} {s t : State} (h : thumbMultiply rs rd s = .next t) :
    StatusKept true sp s t := by
  refine runThumb_status (fun t h => ?_) h
  obtain ⟨u, -, h⟩ := bind_eq_ok.mp h
  cases h
  exact .writesCpsr rfl

theorem thumbLoad_status {k : Transfer} {rd : LowReg} {f : State → Word} {c sp : Bool} {s t : State}
    (h : thumbLoad k rd f s = .next t) : StatusKept c sp s t := by
  refine runThumb_status (fun t h => ?_) h
  obtain ⟨⟨v, s1⟩, h1, h⟩ := bind_eq_ok.mp h
  cases h
  exact (loadValue_rel h1).status.trans (.same rfl rfl)

theorem thumbStore_status {k : Transfer} {rd : LowReg} {f : State → Word} {c sp : Bool} {s t : State}
    (h : thumbStore k rd f s = .next t) : StatusKept c sp s t := by
  refine runThumb_status (fun t h => ?_) h
  obtain ⟨s1, h1, h⟩ := bind_eq_ok.mp h
  cases h
  exact (storeValue_rel h1).status.trans (.same rfl rfl)

theorem push_status {r : Bool} {list : BitVec 8} {c sp : Bool} {s t : State} (h : push r list s = .next t) :
    StatusKept c sp s t := by
  refine runThumb_status (fun t h => ?_) h
  obtain ⟨u, -, h⟩ := bind_eq_ok.mp h
  obtain ⟨s1, h1, h⟩ := bind_eq_ok.mp h
  cases h
  exact (storeWords_rel h1).status.trans (.same rfl rfl)

theorem pop_status {r : Bool} {list : BitVec 8} {c sp : Bool} {s t : State} (h : pop r list s = .next t) :
    StatusKept c sp s t := by
  refine runThumb_status (fun t h => ?_) h
  obtain ⟨u, -, h⟩ := bind_eq_ok.mp h
  obtain ⟨⟨vs, s1⟩, h1, h⟩ := bind_eq_ok.mp h
  cases h
  have hm := (loadWords_rel h1).1
  cases r <;> exact hm.status.trans ((writeRegs_status _ _ s1).trans (.same rfl rfl))

theorem thumbStoreMultiple_status {rb : LowReg} {list : BitVec 8} {c sp : Bool} {s t : State}
    (h : thumbStoreMultiple rb list s = .next t) : StatusKept c sp s t := by
  refine runThumb_status (fun t h => ?_) h
  obtain ⟨u, -, h⟩ := bind_eq_ok.mp h
  obtain ⟨u, -, h⟩ := bind_eq_ok.mp h
  obtain ⟨s1, h1, h⟩ := bind_eq_ok.mp h
  cases h
  exact (storeWords_rel h1).status.trans (.same rfl rfl)

theorem thumbLoadMultiple_status {rb : LowReg} {list : BitVec 8} {c sp : Bool} {s t : State}
    (h : thumbLoadMultiple rb list s = .next t) : StatusKept c sp s t := by
  refine runThumb_status (fun t h => ?_) h
  obtain ⟨u, -, h⟩ := bind_eq_ok.mp h
  obtain ⟨⟨vs, s1⟩, h1, h⟩ := bind_eq_ok.mp h
  cases h
  have hbase : StatusKept c sp s1 (s1.setLo rb (BlockMode.ia.writeBack (s.begun.lo rb) (lowList list).length)) := .same rfl rfl
  exact (loadWords_rel h1).1.status.trans (hbase.trans ((writeRegs_status _ _ _).trans (.same rfl rfl)))

theorem thumbBranchIf_status {cond : Cond} {off : BitVec 8} {c sp : Bool} {s t : State}
    (h : thumbBranchIf cond off s = .next t) : StatusKept c sp s t := by
  refine runThumb_total_status ?_ h
  split <;> exact .same rfl rfl

theorem adjustSp_status {sub : Bool} {imm : BitVec 7} {c sp : Bool} {s t : State} (h : execTAdjustSp sub imm s = .next t) :
    StatusKept c sp s t := runThumb_total_status (.same rfl rfl) h

theorem thumbBranch_status {off : BitVec 11} {c sp : Bool} {s t : State} (h : thumbBranch off s = .next t) :
    StatusKept c sp s t := runThumb_total_status (.same rfl rfl) h

theorem blPrefix_status {off : BitVec 11} {c sp : Bool} {s t : State} (h : blPrefix off s = .next t) :
    StatusKept c sp s t := runThumb_total_status (.same rfl rfl) h

theorem blSuffix_status {off : BitVec 11} {c sp : Bool} {s t : State} (h : blSuffix off s = .next t) :
    StatusKept c sp s t := runThumb_total_status (.same rfl rfl) h

/-- An instruction writes the CPSR and the SPSRs only where its shape says so (R110, R120). -/
theorem runShape_status {sh : Shape} {s t : State} (h : runShape sh s = .next t) :
    StatusKept (sh.writesCpsr s) (sh.writesSpsr s) s t := by
  cases sh with
  | dataProc => exact runArm_status (fun _ => dpWrite_status) h
  | multiply => exact multiply_status h
  | longMultiply => exact longMultiply_status h
  | mrs => exact moveFromStatus_status h
  | msr => exact moveToStatus_status h
  | bx => exact runArm_status (fun _ => exchange_status) h
  | branch => exact branch_status h
  | swap => exact swap_status h
  | transfer =>
    simp only [runShape] at h
    split at h <;> exact runArm_status (fun _ => transferBody_status) h
  | block load =>
    cases load with
    | false => exact blockStore_status h
    | true => exact blockLoad_status h
  | undefArm => exact .writesBoth _ _
  | swi => exact runArm_status (fun _ => softwareInterrupt_status) h
  | tShift => exact thumbCompute_status h
  | tAlu =>
    simp only [runShape] at h
    split at h
    · exact thumbCompare_status h
    · exact thumbCompute_status h
  | tMul => exact thumbMultiply_status h
  | tHi =>
    simp only [runShape] at h
    split at h
    · exact thumbHi_status h
    · exact thumbHiCompare_status h
    · exact thumbHi_status h
  | tBx => exact runThumb_status (fun _ => exchange_status) h
  | tAddress =>
    simp only [runShape] at h
    split at h <;> exact thumbAddress_status h
  | tAdjustSp => exact adjustSp_status h
  | tTransfer =>
    simp only [runShape] at h
    split at h
    · exact thumbLoad_status h
    · exact thumbStore_status h
  | tPush => exact push_status h
  | tPop => exact pop_status h
  | tBlock load =>
    cases load with
    | false => exact thumbStoreMultiple_status h
    | true => exact thumbLoadMultiple_status h
  | tBranchIf => exact thumbBranchIf_status h
  | tUnd => exact .writesBoth _ _
  | tSwi => exact runThumb_status (fun _ => softwareInterrupt_status) h
  | tB => exact thumbBranch_status h
  | tBl suffix =>
    cases suffix with
    | false => exact blPrefix_status h
    | true => exact blSuffix_status h

/-- Settles O54: by shape for the status registers; the rest is what every instruction leaves (`exec_leaves`). -/
theorem statusFrame : Obligations.StatusFrame := by
  intro i s t h
  have hrest := (exec_leaves h).rel.rest
  rw [exec_eq_runShape] at h
  have hstatus := runShape_status h
  exact ⟨hstatus.cpsr, hstatus.spsr, hrest⟩

end Sys2Proof.Machine
end

section
/-! PROOFS. Where a fault stops an instruction and what it leaves (O55). -/

namespace Sys2Proof.Machine

/-! ### Checks: computations that pass or stop with an unpredictable case -/

/-- The computation stops with an unpredictable case, and the block is as `s` has it. -/
def StopsUnpredictable {α : Type} (x : Except Fault α) (s : State) : Prop :=
  ∃ case, x = .error (.stop (.unpredictable case) s)

theorem StopsUnpredictable.bind {α β : Type} {x : Except Fault α} {s : State} (h : StopsUnpredictable x s)
    (f : α → Except Fault β) : StopsUnpredictable (x >>= f) s := by
  obtain ⟨case, rfl⟩ := h
  exact ⟨case, rfl⟩

/-- A check on `s`: it passes, or it stops with an unpredictable case. -/
def IsCheck (x : Except Fault Unit) (s : State) : Prop := x = .ok () ∨ StopsUnpredictable x s

theorem IsCheck.checkAlt (b : Bool) (k : UnpredictableCase) (s : State) : IsCheck (checkAlt b k s) s := by
  cases h : Machine.checkAlt b k s with
  | ok u => exact .inl rfl
  | error f =>
    obtain ⟨-, -, rfl⟩ := checkAlt_eq_error.mp h
    exact .inr ⟨k, rfl⟩

theorem IsCheck.checkNever (b : Bool) (k : UnpredictableCase) (s : State) : IsCheck (checkNever b k s) s := by
  cases h : Machine.checkNever b k s with
  | ok u => exact .inl rfl
  | error f =>
    obtain ⟨-, rfl⟩ := checkNever_eq_error.mp h
    exact .inr ⟨k, rfl⟩

theorem IsCheck.seq {x y : Except Fault Unit} {s : State} (hx : IsCheck x s) (hy : IsCheck y s) :
    IsCheck (x >>= fun _ => y) s := by
  rcases hx with rfl | hx
  · exact hy
  · exact .inr (hx.bind _)

/-- A check, then a computation that stops where the check passes. -/
theorem IsCheck.stops_then {α : Type} {x : Except Fault Unit} {s : State} {f : Unit → Except Fault α} (hx : IsCheck x s)
    (hf : x = .ok () → StopsUnpredictable (f ()) s) : StopsUnpredictable (x >>= f) s := by
  rcases hx with rfl | hx
  · exact hf rfl
  · exact hx.bind f

/-- An ARM instruction that starts: its condition passes and it is not stopped by the hazard of R972. -/
theorem Starts.arm {sh : Shape} {c : Cond} {s : State} (hs : Starts sh s) (hc : sh.cond? = some c) :
    condHolds c s.cpsr = true ∧
      (s.params.arm7tdmiAlt = true ∨ (s.afterUserLdm && sh.regs.any s.cpsr.m.banks) = false) :=
  ⟨hs.1 c hc, by simpa [hc] using hs.2⟩

/-- The instruction that starts in `s` stops with an unpredictable case, nothing changed (R14, R902). -/
def FaultsUnpredictable (r : Result) (s : State) : Prop := ∃ case, r = .fault (.stop (.unpredictable case) s)

theorem runArm_stops {sh : Shape} {c : Cond} {regs : List RegNum} {checks : State → Except Fault Unit}
    {body : State → Except Fault State} {s : State} (hs : Starts sh s) (hc : sh.cond? = some c) (hregs : sh.regs = regs)
    (h : StopsUnpredictable (checks s.begun >>= fun _ => body s.begun) s.begun) :
    FaultsUnpredictable (runArm c regs checks body s) s := by
  obtain ⟨hcond, hhazard⟩ := hs.arm hc
  obtain ⟨case, h⟩ := h
  exact ⟨case, by rw [runArm_runs hcond (hregs ▸ hhazard), h]; rfl⟩

/-- An ARM instruction that is not permitted, where its checks pass only what is. -/
theorem runArm_stops_of_checks {sh : Shape} {c : Cond} {regs : List RegNum} {checks : State → Except Fault Unit}
    {body : State → Except Fault State} {s : State} (hs : Starts sh s) (hp : ¬ Permits sh s) (hc : sh.cond? = some c)
    (hregs : sh.regs = regs) (hcheck : IsCheck (checks s.begun) s.begun)
    (hok : checks s.begun = .ok () → Permits sh s.begun) :
    FaultsUnpredictable (runArm c regs checks body s) s :=
  runArm_stops hs hc hregs ((hcheck.resolve_left (mt hok hp)).bind _)

theorem runThumb_stops {body : State → Except Fault State} {s : State} (h : StopsUnpredictable (body s.begun) s.begun) :
    FaultsUnpredictable (runThumb body s) s := by
  obtain ⟨case, h⟩ := h
  exact ⟨case, by rw [runThumb_runs, h]; rfl⟩

/-- A Thumb instruction whose one unpredictable case is a "fault always". -/
theorem runThumb_stops_of_never {sh : Shape} {b : Bool} {k : UnpredictableCase} {f : State → Unit → Except Fault State}
    {s : State} (hp : ¬ Permits sh s) (hb : sh.alwaysFaults = b) (halt : sh.altCase s = false) :
    FaultsUnpredictable (runThumb (fun s => checkNever b k s >>= f s) s) s :=
  runThumb_stops ((IsCheck.checkNever b k s.begun).stops_then fun hok =>
    absurd ⟨hb.trans (checkNever_eq_ok.mp hok), .inr halt⟩ hp)

/-! ### The checks of each shape pass exactly where the shape is permitted -/

/-- Two checks in order pass where both pass. -/
theorem seq_eq_ok {x y : Except Fault Unit} : (x >>= fun _ => y) = .ok () ↔ x = .ok () ∧ y = .ok () := by
  rw [bind_eq_ok]
  exact ⟨fun ⟨_, h⟩ => h, fun h => ⟨(), h⟩⟩

theorem dpChecks_eq_ok {op : DpOp} {c : Cond} {f : Bool} {rn rd : RegNum} {o : Operand2} {s : State} :
    dpChecks op rn rd o s = .ok () ↔ Permits (.dataProc op c f rn rd o) s := by
  cases o with
  | imm => simp [dpChecks, Permits, Shape.alwaysFaults, Shape.altCase]
  | shiftImm => simp [dpChecks, Permits, Shape.alwaysFaults, Shape.altCase]
  | shiftReg =>
    simp only [dpChecks, seq_eq_ok, checkAlt_eq_ok, Permits, Shape.alwaysFaults, Shape.altCase, Bool.or_eq_false_iff,
      or_and_left, and_assoc, true_and]

theorem mulChecks_eq_ok {c : Cond} {f : Bool} {rd : RegNum} {acc : Option RegNum} {rs rm : RegNum} {s : State} :
    mulChecks rd acc rs rm s = .ok () ↔ Permits (.multiply c f rd acc rs rm) s := by
  simp only [mulChecks, seq_eq_ok, checkAlt_eq_ok, checkNever_eq_ok, Permits, Shape.alwaysFaults, Shape.altCase]
  exact and_comm

theorem longChecks_eq_ok {sg acc : Bool} {c : Cond} {f : Bool} {rdHi rdLo rs rm : RegNum} {s : State} :
    longChecks rdHi rdLo rs rm s = .ok () ↔ Permits (.longMultiply sg acc c f rdHi rdLo rs rm) s := by
  simp only [longChecks, seq_eq_ok, checkAlt_eq_ok, checkNever_eq_ok, Permits, Shape.alwaysFaults, Shape.altCase,
    Bool.or_eq_false_iff]
  tauto

theorem swapChecks_eq_ok {l k : Transfer} {c : Cond} {rn rd rm : RegNum} {s : State} :
    swapChecks rn rd rm s = .ok () ↔ Permits (.swap l k c rn rd rm) s := by
  simp only [swapChecks, seq_eq_ok, checkAlt_eq_ok, checkNever_eq_ok, Permits, Shape.alwaysFaults, Shape.altCase]

theorem transferChecks_eq_ok {t : Transfer} {x : Indexing} {rn rd : RegNum} {o : Offset} {s : State} :
    transferChecks t x rn rd o s = .ok () ↔ (rn = 15#4 && x.writesBack) = false ∧
      (s.params.arm7tdmiAlt = true ∨ (o.reg? = some 15#4 || rd = rn && x.writesBack) = false) := by
  simp only [transferChecks, seq_eq_ok, checkAlt_eq_ok, checkNever_eq_ok, Bool.or_eq_false_iff, or_and_left]

theorem mode2Checks_eq_ok {t : Transfer} {c : Cond} {x : Indexing} {rn rd : RegNum} {o : Offset} {s : State}
    (ht : t.isMode2 = true) : mode2Checks t x rn rd o s = .ok () ↔ Permits (.transfer t c x rn rd o) s := by
  have hload : (t.isLoad && decide (t ≠ .ldr)) = decide (t = .ldrb) := by cases t <;> revert ht <;> decide
  have hstore : (decide (t = .strb) || decide (t = .strh)) = decide (t = .strb) := by cases t <;> revert ht <;> decide
  simp only [mode2Checks, seq_eq_ok, transferChecks_eq_ok, checkAlt_eq_ok, checkNever_eq_ok, Permits, Shape.alwaysFaults,
    Shape.altCase, ht, hload, hstore, Bool.true_and, Bool.or_eq_false_iff, or_and_left]
  tauto

theorem mode3Checks_eq_ok {t : Transfer} {c : Cond} {x : Indexing} {rn rd : RegNum} {o : Offset} {s : State}
    (ht : t.isMode2 = false) : mode3Checks t x rn rd o s = .ok () ↔ Permits (.transfer t c x rn rd o) s := by
  have hload : (t.isLoad && decide (t ≠ .ldr)) = t.isLoad := by cases t <;> revert ht <;> decide
  have hstore : (decide (t = .strb) || decide (t = .strh)) = decide (t = .strh) := by cases t <;> revert ht <;> decide
  simp only [mode3Checks, seq_eq_ok, transferChecks_eq_ok, checkAlt_eq_ok, checkNever_eq_ok, Permits, Shape.alwaysFaults,
    Shape.altCase, ht, hload, hstore, Bool.false_and, Bool.or_false, Bool.or_eq_false_iff, or_and_left]
  tauto

theorem blockChecks_eq_ok {load : Bool} {bm : BlockMode} {c : Cond} {ub w : Bool} {rn : RegNum} {list : BitVec 16} {s : State} :
    blockChecks load ub w rn list s = .ok () ↔ Permits (.block load bm c ub w rn list) s := by
  simp only [blockChecks, seq_eq_ok, checkAlt_eq_ok, Permits, Shape.alwaysFaults, Shape.altCase, userBank, isLowest,
    ← or_and_left, ← Bool.or_eq_false_iff, true_and]
  generalize list.getLsbD 15 = pc
  cases w with
  | false => cases load <;> simp
  | true => cases load <;> cases ub <;> cases pc <;> simp

/-! ### Each check function is a check -/

theorem dpChecks_isCheck (op : DpOp) (rn rd : RegNum) (o : Operand2) (s : State) : IsCheck (dpChecks op rn rd o s) s := by
  cases o with
  | imm => exact .inl rfl
  | shiftImm => exact .inl rfl
  | shiftReg => exact (IsCheck.checkAlt _ _ _).seq ((IsCheck.checkAlt _ _ _).seq (.checkAlt _ _ _))

theorem mulChecks_isCheck (rd : RegNum) (acc : Option RegNum) (rs rm : RegNum) (s : State) :
    IsCheck (mulChecks rd acc rs rm s) s := (IsCheck.checkAlt _ _ _).seq (.checkNever _ _ _)

theorem longChecks_isCheck (rdHi rdLo rs rm : RegNum) (s : State) : IsCheck (longChecks rdHi rdLo rs rm s) s :=
  (IsCheck.checkNever _ _ _).seq ((IsCheck.checkAlt _ _ _).seq (.checkNever _ _ _))

theorem swapChecks_isCheck (rn rd rm : RegNum) (s : State) : IsCheck (swapChecks rn rd rm s) s :=
  (IsCheck.checkNever _ _ _).seq (.checkAlt _ _ _)

theorem transferChecks_isCheck (t : Transfer) (x : Indexing) (rn rd : RegNum) (o : Offset) (s : State) :
    IsCheck (transferChecks t x rn rd o s) s :=
  (IsCheck.checkNever _ _ _).seq ((IsCheck.checkAlt _ _ _).seq (.checkAlt _ _ _))

theorem mode2Checks_isCheck (t : Transfer) (x : Indexing) (rn rd : RegNum) (o : Offset) (s : State) :
    IsCheck (mode2Checks t x rn rd o s) s :=
  (transferChecks_isCheck _ _ _ _ _ _).seq ((IsCheck.checkAlt _ _ _).seq ((IsCheck.checkNever _ _ _).seq (.checkAlt _ _ _)))

theorem mode3Checks_isCheck (t : Transfer) (x : Indexing) (rn rd : RegNum) (o : Offset) (s : State) :
    IsCheck (mode3Checks t x rn rd o s) s :=
  (transferChecks_isCheck _ _ _ _ _ _).seq ((IsCheck.checkNever _ _ _).seq (.checkAlt _ _ _))

theorem blockChecks_isCheck (load ub w : Bool) (rn : RegNum) (list : BitVec 16) (s : State) :
    IsCheck (blockChecks load ub w rn list s) s :=
  (IsCheck.checkAlt _ _ _).seq ((IsCheck.checkAlt _ _ _).seq ((IsCheck.checkAlt _ _ _).seq
    ((IsCheck.checkAlt _ _ _).seq (.checkAlt _ _ _))))

/-! ### The saved status where the mode has none (R121) -/

theorem Spsrs.get_eq_none {x : Spsrs} {m : Mode} (h : m.hasSpsr = false) : x.get m = none := by
  cases m with
  | usr | sys => rfl
  | fiq | irq | svc | abt | und => cases h

theorem unpredictable_stops {k : UnpredictableCase} {s : State} (h : s.params.arm7tdmiAlt = false) :
    StopsUnpredictable (unpredictable k s) s := ⟨k, by simp [unpredictable, h]⟩

theorem statusValue_stops {s : State} (ha : s.params.arm7tdmiAlt = false) (hm : s.cpsr.m.hasSpsr = false) :
    StopsUnpredictable (statusValue true s) s := by
  simp only [statusValue, State.spsrNow, Spsrs.get_eq_none hm, if_true]
  exact (unpredictable_stops ha).bind _

theorem writeSpsr_stops {mask : BitVec 4} {v : Word} {s : State} (ha : s.params.arm7tdmiAlt = false)
    (hm : s.cpsr.m.hasSpsr = false) : StopsUnpredictable (writeSpsr mask v s) s := by
  simp only [writeSpsr, State.spsrNow, Spsrs.get_eq_none hm]
  exact (unpredictable_stops ha).bind _

/-! ### An instruction that is not permitted -/

theorem not_permits {sh : Shape} {s : State} (h : ¬ Permits sh s) :
    sh.alwaysFaults = true ∨ s.params.arm7tdmiAlt = false ∧ sh.altCase s = true := by
  simpa [Permits, or_iff_not_imp_left] using h

theorem moveFromStatus_stops {c : Cond} {spsr : Bool} {rd : RegNum} {s : State} (hs : Starts (.mrs c spsr rd) s)
    (hp : ¬ Permits (.mrs c spsr rd) s) : FaultsUnpredictable (moveFromStatus c spsr rd s) s := by
  refine runArm_stops hs rfl rfl (IsCheck.stops_then (.checkNever _ _ _) fun hrd => ?_)
  obtain halways | ⟨halt, hcase⟩ := not_permits hp
  · exact absurd (checkNever_eq_ok.mp hrd) (ne_false_of_eq_true halways)
  · simp only [Shape.altCase, Bool.and_eq_true, Bool.not_eq_true'] at hcase
    rw [hcase.1]
    exact (statusValue_stops (s := s.begun) halt hcase.2).bind _

theorem moveToStatus_stops {c : Cond} {spsr : Bool} {mask : BitVec 4} {o : Operand2} {s : State}
    (hs : Starts (.msr c spsr mask o) s) (hp : ¬ Permits (.msr c spsr mask o) s) :
    FaultsUnpredictable (moveToStatus c spsr mask o s) s := by
  refine runArm_stops hs rfl rfl (IsCheck.stops_then (.checkNever _ _ _) fun hrm => ?_)
  obtain halways | ⟨halt, hcase⟩ := not_permits hp
  · exact absurd (checkNever_eq_ok.mp hrm) (ne_false_of_eq_true halways)
  · simp only [Shape.altCase, Bool.and_eq_true, Bool.not_eq_true'] at hcase
    simp only [hcase.1, if_true]
    exact (writeSpsr_stops (s := s.begun) halt hcase.2).bind _

theorem thumbMultiply_stops {rs rd : LowReg} {s : State} (hp : ¬ Permits (.tMul rs rd) s) :
    FaultsUnpredictable (thumbMultiply rs rd s) s := by
  refine runThumb_stops ((IsCheck.checkAlt _ _ _).stops_then fun hok => ?_)
  have hno := checkAlt_eq_ok.mp hok
  exact absurd ⟨rfl, hno⟩ hp

theorem thumbHi_stops {op : DpOp} {m d : RegNum} {f : State → Word} {s : State} (hop : op ≠ .cmp)
    (hp : ¬ Permits (.tHi op m d) s) : FaultsUnpredictable (thumbHi m d f s) s := by
  refine runThumb_stops ((IsCheck.checkAlt _ _ _).stops_then fun hok => absurd ⟨rfl, ?_⟩ hp)
  simpa [Shape.altCase, bothLow, hop] using checkAlt_eq_ok.mp hok

theorem thumbHiCompare_stops {m d : RegNum} {s : State} (hp : ¬ Permits (.tHi .cmp m d) s) :
    FaultsUnpredictable (thumbHiCompare m d s) s := by
  refine runThumb_stops ((IsCheck.checkAlt _ _ _).stops_then fun hlow =>
    (IsCheck.checkAlt _ _ _).stops_then fun hpc => absurd ⟨rfl, ?_⟩ hp)
  have hno := or_and_left.mpr ⟨checkAlt_eq_ok.mp hlow, checkAlt_eq_ok.mp hpc⟩
  simpa [Shape.altCase, bothLow] using hno

theorem thumbStoreMultiple_stops {rb : LowReg} {list : BitVec 8} {s : State} (hp : ¬ Permits (.tBlock false rb list) s) :
    FaultsUnpredictable (thumbStoreMultiple rb list s) s := by
  refine runThumb_stops ((IsCheck.checkNever _ _ _).stops_then fun hlist =>
    (IsCheck.checkAlt _ _ _).stops_then fun hbase => absurd ⟨checkNever_eq_ok.mp hlist, ?_⟩ hp)
  simpa [Shape.altCase] using checkAlt_eq_ok.mp hbase

/-- An instruction that starts and is not permitted stops before any access (R14, R902). -/
theorem runShape_stops {sh : Shape} {s : State} (hs : Starts sh s) (hp : ¬ Permits sh s) :
    FaultsUnpredictable (runShape sh s) s := by
  cases sh <;> simp only [runShape]
  case dataProc => exact runArm_stops_of_checks hs hp rfl rfl (dpChecks_isCheck ..) dpChecks_eq_ok.mp
  case multiply => exact runArm_stops_of_checks hs hp rfl rfl (mulChecks_isCheck ..) mulChecks_eq_ok.mp
  case longMultiply => exact runArm_stops_of_checks hs hp rfl rfl (longChecks_isCheck ..) longChecks_eq_ok.mp
  case mrs => exact moveFromStatus_stops hs hp
  case msr => exact moveToStatus_stops hs hp
  case swap => exact runArm_stops_of_checks hs hp rfl rfl (swapChecks_isCheck ..) swapChecks_eq_ok.mp
  case transfer =>
    split
    next ht => exact runArm_stops_of_checks hs hp rfl rfl (mode2Checks_isCheck ..) (mode2Checks_eq_ok ht).mp
    next ht =>
      exact runArm_stops_of_checks hs hp rfl rfl (mode3Checks_isCheck ..) (mode3Checks_eq_ok (eq_false_of_ne_true ht)).mp
  case block load _ _ _ _ _ _ =>
    cases load with
    | false =>
      simp only [Bool.false_eq_true, if_false]
      exact runArm_stops_of_checks hs hp rfl rfl (blockChecks_isCheck ..) blockChecks_eq_ok.mp
    | true =>
      simp only [if_true]
      exact runArm_stops_of_checks hs hp rfl rfl (blockChecks_isCheck ..) blockChecks_eq_ok.mp
  case tMul => exact thumbMultiply_stops hp
  case tHi =>
    split
    · exact thumbHi_stops (by decide) hp
    · exact thumbHiCompare_stops hp
    · exact thumbHi_stops (by assumption) hp
  case tPush => exact runThumb_stops_of_never hp rfl rfl
  case tPop => exact runThumb_stops_of_never hp rfl rfl
  case tBlock load _ _ =>
    cases load with
    | false => exact thumbStoreMultiple_stops hp
    | true =>
      simp only [if_true]
      exact runThumb_stops_of_never hp rfl rfl
  -- every other shape is permitted
  all_goals exact absurd ⟨rfl, .inr rfl⟩ hp

/-! ### What a fault leaves -/

/-- A fault of any instruction leaves the accesses performed before it, and nothing else of the step (R900). -/
theorem runShape_fault {sh : Shape} {s t : State} {r : FaultReason} (h : runShape sh s = .fault (.stop r t)) :
    ∃ u, t = s.leave u := by
  cases sh <;> simp only [runShape] at h
  case dataProc | multiply | longMultiply | mrs | msr | bx | branch | swap | undefArm | swi => exact runArm_fault h
  case tShift | tMul | tBx | tAdjustSp | tPush | tPop | tBranchIf | tUnd | tSwi | tB => exact runThumb_fault h
  case transfer | block => split at h <;> exact runArm_fault h
  case tAlu | tHi | tAddress | tTransfer | tBlock | tBl => split at h <;> exact runThumb_fault h

/-- An access of a unit that faults leaves the block as it was. -/
theorem stopAt_bind_error {α β : Type} {s t : State} {r : FaultReason} {x : Except FaultReason α} {g : α → β}
    (h : (stopAt s x >>= fun a => .ok (g a)) = .error (.stop r t)) : t = s := by
  rcases bind_eq_error.mp h with h | ⟨a, -, h⟩
  · obtain ⟨_, -, hr⟩ := stopAt_eq_error.mp h
    cases hr
    rfl
  · cases h

/-- A load that faults changes nothing. -/
theorem busLoad_error {w : Width} {a : Word} {s t : State} {r : FaultReason} (h : busLoad w a s = .error (.stop r t)) :
    t = s := by
  simp only [busLoad, pure_eq_ok] at h
  split at h
  case h_1 =>
    cases h
    rfl
  case h_4 => cases h
  all_goals exact stopAt_bind_error h

/-- A store that faults changes nothing. -/
theorem busStore_error {w : Width} {a v : Word} {s t : State} {r : FaultReason} (h : busStore w a v s = .error (.stop r t)) :
    t = s := by
  simp only [busStore, pure_eq_ok] at h
  split at h
  case h_1 =>
    cases h
    rfl
  case h_2 | h_3 | h_4 => cases h
  all_goals exact stopAt_bind_error h

/-- Recording a race never faults: a store of the CPU unit faults where the store of the interface does. -/
theorem cpuStore_error {w : Width} {a v : Word} {s t : State} {r : FaultReason} (h : cpuStore w a v s = .error (.stop r t)) :
    busStore w a v s = .error (.stop r t) := by
  rcases bind_eq_error.mp h with h | ⟨u, -, h⟩
  · exact h
  · cases h

/-- The address of word `k + 1` of a block is that of word `k` of the block after its first. -/
theorem blockAddress_succ (start : Word) (k : Nat) :
    start + 4 + BitVec.ofNat 32 (4 * k) = start + BitVec.ofNat 32 (4 * (k + 1)) := by
  rw [Nat.mul_succ, Nat.add_comm, BitVec.ofNat_add, BitVec.add_assoc]
  rfl

/-- A block store faults at one of its words, with every word before it stored (R651, R900). -/
theorem storeWords_error {start : Word} {vs : List Word} {s t : State} {r : FaultReason}
    (h : storeWords start vs s = .error (.stop r t)) :
    ∃ k v, vs[k]? = some v ∧ storeWords start (vs.take k) s = .ok t ∧
      busStore .word (alignWord (start + BitVec.ofNat 32 (4 * k))) v t = .error (.stop r t) := by
  induction vs generalizing start s with
  | nil => cases h
  | cons v vs ih =>
    rcases bind_eq_error.mp h with h | ⟨u, hu, h⟩
    · have hfirst := cpuStore_error h
      obtain rfl := busStore_error hfirst
      exact ⟨0, v, rfl, rfl, by simpa using hfirst⟩
    · obtain ⟨k, v', hk, hbefore, hfault⟩ := ih h
      refine ⟨k + 1, v', hk, ?_, blockAddress_succ start k ▸ hfault⟩
      rw [List.take_succ_cons, storeWords, hu]
      exact hbefore

/-- A block load faults at one of its words, with every word before it read (R651, R900). -/
theorem loadWords_error {start : Word} {n : Nat} {s t : State} {r : FaultReason}
    (h : loadWords start n s = .error (.stop r t)) :
    ∃ k vs, k < n ∧ loadWords start k s = .ok (vs, t) ∧
      busLoad .word (alignWord (start + BitVec.ofNat 32 (4 * k))) t = .error (.stop r t) := by
  induction n generalizing start s with
  | zero => cases h
  | succ n ih =>
    rcases bind_eq_error.mp h with h | ⟨⟨v, u⟩, hu, h⟩
    · obtain rfl := busLoad_error h
      exact ⟨0, [], Nat.succ_pos n, rfl, by simpa using h⟩
    · rcases bind_eq_error.mp h with h | ⟨_, -, h⟩
      · obtain ⟨k, vs, hk, hbefore, hfault⟩ := ih h
        refine ⟨k + 1, v :: vs, Nat.succ_lt_succ hk, ?_, blockAddress_succ start k ▸ hfault⟩
        rw [loadWords, hu, ok_bind, hbefore]
        rfl
      · cases h

/-- A permitted STM that starts faults where its stores do. -/
theorem blockStore_fault {bm : BlockMode} {c : Cond} {ub w : Bool} {rn : RegNum} {list : BitVec 16} {s t : State}
    {r : FaultReason} (hs : Starts (.block false bm c ub w rn list) s) (hp : Permits (.block false bm c ub w rn list) s)
    (h : storeWords (bm.start (s.begun.x 8 rn) (blockCount list)) (storedValues bm ub w rn list s.begun) s.begun =
      .error (.stop r t)) : blockStore bm c ub w rn list s = .fault (.stop r (s.leave t)) := by
  have hchecks : blockChecks false ub w rn list s.begun = .ok () := blockChecks_eq_ok.mpr hp
  obtain ⟨hcond, hhazard⟩ := hs.arm rfl
  rw [blockStore, runArm_runs (regs := blockRegs false ub rn list) hcond hhazard, hchecks, ok_bind]
  simp only [h, error_bind, settleFrom_error, Fault.within]

/-- Without write-back STM stores the registers as they are, R15 as A + 12 (R653, R660). -/
theorem storedValues_of_not_writeBack (bm : BlockMode) (ub : Bool) (rn : RegNum) {list : BitVec 16} (hlist : list ≠ 0#16)
    (s : State) : storedValues bm ub false rn list s =
      (regList list).map (fun q => if q = 15#4 then s.pc + 12 else s.bankReg (if ub then .usr else s.cpsr.m) q) := by
  simp [storedValues, hlist, storedReg]

/-- Settles O55: an instruction that is not permitted fails one of its checks, and these come before its accesses; a fault keeps
of a step what `State.leave` keeps; the blocks by induction on their words. -/
theorem faultsStop : Obligations.FaultsStop := by
  refine ⟨fun i s hs hp => ?_, fun i s t r h => ?_, fun _ _ _ _ _ => storeWords_error, fun _ _ _ _ _ => loadWords_error,
    fun i bm c ub rn list s t r hi hlist hs hp h => ?_⟩
  · rw [exec_eq_runShape]
    exact runShape_stops hs hp
  · rw [exec_eq_runShape] at h
    obtain ⟨u, rfl⟩ := runShape_fault h
    rfl
  · rw [hi] at hs hp
    rw [exec_eq_runShape, hi]
    refine ⟨s.leave t, blockStore_fault hs hp ?_, rfl, rfl, rfl, rfl⟩
    rw [storedValues_of_not_writeBack bm ub rn hlist, blockCount, if_neg hlist]
    exact h

end Sys2Proof.Machine
end

section
/-! PROOFS. The banked registers and the CPSR word (O15, O16). -/

namespace Sys2Proof.Machine

/-- Settles O15: two names denote one place of the register file exactly where number and bank agree (`physIndex_inj`). -/
theorem bankedRegisters : Obligations.BankedRegisters := by
  intro s m m' i j v hi hj
  rw [State.bankReg_setBankReg]
  exact if_congr (physIndex_inj m m' i j hi hj) rfl rfl

/-! ### The CPSR word -/

@[simp] theorem Mode.ofBits_bits (m : Mode) : Mode.ofBits m.bits = some m := by
  cases m <;> rfl

/-- A mode is encoded by the one value that decodes to it (R101). -/
theorem Mode.bits_of_ofBits {b : BitVec 5} {m : Mode} (h : Mode.ofBits b = some m) : m.bits = b := by
  revert b m
  decide

theorem modeOfWord_eq_ok {w : Word} {m : Mode} : modeOfWord w = .ok m ↔ field w 0 5 = m.bits := by
  constructor
  · intro h
    simp only [modeOfWord] at h
    split at h
    · cases h
      exact (Mode.bits_of_ofBits (by assumption)).symm
    · cases h
  · intro h
    simp [modeOfWord, h]

theorem bitAt_putBit {m lo : Nat} (b : Bool) (i : Nat) (h : lo < m) : bitAt (putBit m lo b) i = (decide (i = lo) && b) := by
  rw [putBit, bitAt_put lo i _ h, BitVec.getLsbD_ofBool, ← Bool.and_assoc, ← Bool.decide_and]
  congr 2
  exact propext (by omega)

/-- The bits of the packed CPSR (R110, R119): the seven flags at their places, the mode below them, zero elsewhere. -/
theorem Cpsr.bitAt_pack (p : Cpsr) (i : Nat) : bitAt p.pack i =
    (i = 31 && p.n || i = 30 && p.z || i = 29 && p.c || i = 28 && p.v || i = 7 && p.i || i = 6 && p.f || i = 5 && p.t ||
      p.m.bits.getLsbD i) := by
  simp [Cpsr.pack, bitAt_putBit]

theorem Cpsr.field_pack_mode (p : Cpsr) : field p.pack 0 5 = p.m.bits := by
  simp [Cpsr.pack, putBit, field_put_below]

theorem Cpsr.field_pack_reserved (p : Cpsr) : field p.pack 8 20 = 0#20 := by
  simp [Cpsr.pack, putBit, field_put_below, field_put_above]

/-- A word that is no fault to unpack: its mode field is the mode, the flags are its bits (R119, R122). -/
theorem Cpsr.unpack_eq_ok {w : Word} {p : Cpsr} : Cpsr.unpack w = .ok p ↔
    field w 0 5 = p.m.bits ∧ p.n = bitAt w 31 ∧ p.z = bitAt w 30 ∧ p.c = bitAt w 29 ∧ p.v = bitAt w 28 ∧ p.i = bitAt w 7 ∧
      p.f = bitAt w 6 ∧ p.t = bitAt w 5 := by
  simp only [Cpsr.unpack, pure_eq_ok, bind_eq_ok, modeOfWord_eq_ok]
  constructor
  · rintro ⟨m, hm, h⟩
    cases h
    exact ⟨hm, rfl, rfl, rfl, rfl, rfl, rfl, rfl⟩
  · obtain ⟨n, z, c, v, i, f, t, m⟩ := p
    rintro ⟨hm, rfl, rfl, rfl, rfl, rfl, rfl, rfl⟩
    exact ⟨m, hm, rfl⟩

/-- The seven flags of the packed CPSR at their places. -/
theorem Cpsr.flags_pack (p : Cpsr) : bitAt p.pack 31 = p.n ∧ bitAt p.pack 30 = p.z ∧ bitAt p.pack 29 = p.c ∧
    bitAt p.pack 28 = p.v ∧ bitAt p.pack 7 = p.i ∧ bitAt p.pack 6 = p.f ∧ bitAt p.pack 5 = p.t := by
  simp [Cpsr.bitAt_pack]

theorem Cpsr.unpack_pack (p : Cpsr) : Cpsr.unpack p.pack = .ok p := by
  obtain ⟨hn, hz, hc, hv, hi, hf, ht⟩ := p.flags_pack
  exact Cpsr.unpack_eq_ok.mpr ⟨p.field_pack_mode, hn.symm, hz.symm, hc.symm, hv.symm, hi.symm, hf.symm, ht.symm⟩

/-- Packing what a word unpacks to keeps the bits with storage and clears bits 27:8 (R110, R122): bit by bit. -/
theorem Cpsr.pack_of_unpack {w : Word} {p : Cpsr} (h : Cpsr.unpack w = .ok p) : p.pack = w &&& 0xF00000FF#32 := by
  obtain ⟨hm, hn, hz, hc, hv, hi, hf, ht⟩ := Cpsr.unpack_eq_ok.mp h
  have hmode : ∀ k, p.m.bits.getLsbD k = (decide (k < 5) && w.getLsbD k) := fun k => by simp [← hm, field]
  refine BitVec.eq_of_getLsbD_eq fun k hk => ?_
  rw [← bitAt, Cpsr.bitAt_pack, hmode, hn, hz, hc, hv, hi, hf, ht]
  clear * - hk
  interval_cases k <;> simp [bitAt]

/-- Settles O16: unpacking reads the fields packing writes, and bits 27:8 lie in no field. -/
theorem cpsrPacking : Obligations.CpsrPacking := by
  intro p w
  obtain ⟨hn, hz, hc, hv, hi, hf, ht⟩ := p.flags_pack
  exact ⟨p.unpack_pack, p.field_pack_reserved, p.field_pack_mode, ht, hf, hi, hv, hc, hz, hn, fun _ => Cpsr.pack_of_unpack⟩

end Sys2Proof.Machine
end

section
/-! PROOFS. Data processing that writes R15 (O28): the ALU as exact arithmetic, the write of R15, the return. -/

namespace Sys2Proof.Machine

/-! ### The ALU laws as exact arithmetic (R430 to R432) -/

/-- The sign of the sum differs from the operands' common sign exactly where the signed sum is out of range (R430). -/
theorem addLaw_overflow (a b : Word) (cin : Bool) : (addLaw a b cin).v = some (addOverflow a b cin) := by
  have hcin := Bool.toNat_le cin
  have ha := a.isLt
  have hb := b.isLt
  simp only [addLaw, addOverflow, BitVec.msb_eq_decide, BitVec.toInt_eq_toNat_cond, BitVec.toNat_ofNat, Option.some_inj]
  rw [Bool.eq_iff_iff]
  simp
  omega

theorem addLaw_eq (a b : Word) (cin : Bool) :
    addLaw a b cin = ⟨addResult a b cin, addCarry a b cin, some (addOverflow a b cin)⟩ := by
  rw [← addLaw_overflow]
  simp only [addLaw, addResult, addCarry, AluOut.mk.injEq, and_true]
  refine ⟨?_, ?_⟩
  · cases cin <;> simp [BitVec.ofNat_add]
  · simp [Nat.lt_iff_add_one_le]

/-- NOT b as a signed number. -/
theorem toInt_not_eq (b : Word) : (~~~b).toInt = -b.toInt - 1 := by
  have hb := b.isLt
  rw [BitVec.toInt_eq_toNat_cond, BitVec.toInt_eq_toNat_cond, BitVec.toNat_not]
  omega

theorem addResult_not (a b : Word) (bin : Bool) : addResult a (~~~b) (!bin) = subResult a b bin := by
  apply BitVec.eq_of_toNat_eq
  cases bin <;> simp [addResult, subResult, BitVec.toNat_add, BitVec.toNat_sub] <;> omega

theorem addCarry_not (a b : Word) (bin : Bool) : addCarry a (~~~b) (!bin) = subCarry a b bin := by
  have hb := b.isLt
  simp only [addCarry, subCarry, BitVec.toNat_not]
  exact decide_eq_decide.mpr (by cases bin <;> simp <;> omega)

theorem addOverflow_not (a b : Word) (bin : Bool) : addOverflow a (~~~b) (!bin) = subOverflow a b bin := by
  simp only [addOverflow, subOverflow, toInt_not_eq]
  congr 2 <;> cases bin <;> simp <;> omega

/-- Subtraction is the addition of NOT b with the carry for the borrow (R431). -/
theorem subLaw_eq_addLaw (a b : Word) (bin : Bool) : subLaw a b bin = addLaw a (~~~b) (!bin) := by
  have hb := b.isLt
  have hr : BitVec.ofInt 32 ((a.toNat : Int) - b.toNat - bin.toNat) =
      BitVec.ofNat 32 (a.toNat + (~~~b).toNat + (!bin).toNat) := by
    apply BitVec.eq_of_toNat_eq
    rw [BitVec.toNat_ofInt, BitVec.toNat_ofNat, BitVec.toNat_not]
    cases bin <;> simp <;> omega
  have hc : (a.toNat ≥ b.toNat + bin.toNat) = (a.toNat + (~~~b).toNat + (!bin).toNat > 0xFFFFFFFF) := by
    rw [BitVec.toNat_not]
    cases bin <;> simp <;> omega
  have hv : (a.msb != b.msb) = (a.msb == (~~~b).msb) := by
    rw [BitVec.msb_not]
    cases a.msb <;> cases b.msb <;> rfl
  simp only [subLaw, addLaw, hr, hc, hv]

theorem subLaw_eq (a b : Word) (bin : Bool) :
    subLaw a b bin = ⟨subResult a b bin, subCarry a b bin, some (subOverflow a b bin)⟩ := by
  rw [subLaw_eq_addLaw, addLaw_eq, addResult_not, addCarry_not, addOverflow_not]

/-- The value an opcode computes is the exact one (R460 to R475). -/
theorem dpCompute_r (op : DpOp) (a b : Word) (c sc : Bool) : (dpCompute op a b c sc).r = dpValue op a b c := by
  cases op <;> simp [dpCompute, dpValue, logicLaw, addLaw_eq, subLaw_eq]

/-- So is the carry (R430 to R432). -/
theorem dpCompute_c (op : DpOp) (a b : Word) (c sc : Bool) : (dpCompute op a b c sc).c = dpCarry op a b c sc := by
  cases op <;> simp [dpCompute, dpCarry, logicLaw, addLaw_eq, subLaw_eq]

/-- So is the overflow, which a logical operation leaves as it was (R430 to R432). -/
theorem dpCompute_v (op : DpOp) (a b : Word) (c sc v : Bool) :
    (dpCompute op a b c sc).v.getD v = dpOverflow op a b c v := by
  cases op <;> simp [dpCompute, dpOverflow, logicLaw, addLaw_eq, subLaw_eq]

/-- The flags an opcode sets are the exact ones. -/
theorem Cpsr.setAlu_dpCompute (op : DpOp) (a b : Word) (sc : Bool) (p : Cpsr) :
    p.setAlu (dpCompute op a b p.c sc) = dpFlags op a b sc p := by
  rw [Cpsr.setAlu, dpCompute_r, dpCompute_c, dpCompute_v, BitVec.msb_eq_getLsbD_last]
  rfl

/-! ### The write of R15 (R107) and the return (R122) -/

/-- A multiple of 4 has its low two bits clear. -/
theorem low2_eq_zero {v : Word} (h : v &&& 3#32 = 0#32) : v.extractLsb' 0 2 = 0#2 :=
  BitVec.eq_of_toNat_eq (by simpa [BitVec.extractLsb'_toNat] using (and3_eq_zero v).mp h)

theorem branchArm_ok {v : Word} {s : State} (h : TargetOk v s) : branchArm v s = .ok (s.jump (v &&& 0xFFFFFFFC#32)) := by
  have hcheck : checkAlt (v.extractLsb' 0 2 != 0#2) .pcMisalignedArm s = .ok () :=
    checkAlt_ok (h.imp_right fun hv => by simp [low2_eq_zero hv])
  rw [branchArm, hcheck]
  rfl

theorem branchByT_ok {v : Word} {s : State} (h : s.cpsr.t = false → TargetOk v s) :
    branchByT v s = .ok (s.jump (alignTarget s.cpsr.t v)) := by
  cases ht : s.cpsr.t with
  | false =>
    simp only [branchByT, ht]
    exact branchArm_ok (h ht)
  | true =>
    simp only [branchByT, ht]
    rfl

theorem returnFromException_ok {saved target : Word} {p : Cpsr} {s : State} (hp : Cpsr.unpack saved = .ok p)
    (h : p.t = false → TargetOk target s) : returnFromException saved target s =
      .ok ({ s with cpsr := p }.jump (alignTarget p.t target)) := by
  rw [returnFromException, hp, stopAt_ok, ok_bind]
  exact branchByT_ok h

/-! ### The template -/

@[simp] theorem Operand2.eval_begun (o : Operand2) (s : State) : o.eval s.begun = o.eval s := by
  cases o <;> rfl

theorem dpResult_begun (op : DpOp) (rn : RegNum) (o : Operand2) (s : State) :
    dpResult op rn o s.begun = dpCompute op (s.x o.pcAhead rn) (o.eval s).1 s.cpsr.c (o.eval s).2 := by
  simp [dpResult]

/-- A data-processing instruction that starts and is permitted writes its result (R450). -/
theorem dataProcessing_runs {op : DpOp} {c : Cond} {f : Bool} {rn rd : RegNum} {o : Operand2} {s : State}
    (hs : Starts (.dataProc op c f rn rd o) s) (hp : Permits (.dataProc op c f rn rd o) s) :
    dataProcessing op c f rn rd o s = settleFrom s (dpWrite op f rd
      (dpCompute op (s.x o.pcAhead rn) (o.eval s).1 s.cpsr.c (o.eval s).2) s.begun) := by
  have hchecks : dpChecks op rn rd o s.begun = .ok () := dpChecks_eq_ok.mpr hp
  obtain ⟨hcond, hhazard⟩ := hs.arm rfl
  rw [dataProcessing, runArm_runs (regs := dpRegs op rn rd o) hcond hhazard, hchecks, ok_bind, dpResult_begun]

/-- With S = 0 the write of R15 is a branch. -/
theorem dpWrite_branch {op : DpOp} {out : AluOut} {s : State} (hop : op.isCompare = false) (h : TargetOk out.r s) :
    dpWrite op false 15#4 out s = .ok (s.jump (out.r &&& 0xFFFFFFFC#32)) := by
  simp only [dpWrite, hop]
  exact branchArm_ok h

/-- With S = 1 and an SPSR it is the return (R451). -/
theorem dpWrite_return {op : DpOp} {out : AluOut} {saved : Word} {p : Cpsr} {s : State} (hop : op.isCompare = false)
    (hsaved : s.spsrNow = some saved) (hp : Cpsr.unpack saved = .ok p) (h : p.t = false → TargetOk out.r s) :
    dpWrite op true 15#4 out s = .ok ({ s with cpsr := p }.jump (alignTarget p.t out.r)) := by
  simp only [dpWrite, hop, dpReturn, hsaved]
  exact returnFromException_ok hp h

/-- With S = 1 and no SPSR the alternative sets the flags and branches (R451). -/
theorem dpWrite_noSpsr {op : DpOp} {out : AluOut} {s : State} (hop : op.isCompare = false) (hsaved : s.spsrNow = none)
    (halt : s.params.arm7tdmiAlt = true) : dpWrite op true 15#4 out s =
      .ok ({ s with cpsr := s.cpsr.setAlu out }.jump (out.r &&& 0xFFFFFFFC#32)) := by
  simp only [dpWrite, hop, dpReturn, hsaved, unpredictable, halt]
  exact branchArm_ok (s := { s with cpsr := s.cpsr.setAlu out }) (.inl halt)

/-- Settles O28: the three ways of `dpWrite` with Rd = 15, the result and the flags by exact arithmetic. -/
theorem dataProcessingBranch : Obligations.DataProcessingBranch := by
  intro i op c f rn o s r hi hop hs hp hr
  rw [hi] at hs hp
  rw [exec_eq_runShape, hi, runShape, dataProcessing_runs hs hp]
  rw [← dpCompute_r op _ _ _ (o.eval s).2] at hr
  subst hr
  refine ⟨?_, ?_, ?_⟩
  · rintro rfl htarget
    rw [dpWrite_branch (s := s.begun) hop htarget]
    rfl
  · rintro rfl saved p hsaved hunpack htarget
    rw [dpWrite_return (s := s.begun) hop hsaved hunpack htarget]
    rfl
  · rintro rfl hsaved halt
    rw [dpWrite_noSpsr (s := s.begun) hop hsaved halt, ← Cpsr.setAlu_dpCompute]
    rfl

end Sys2Proof.Machine
end

section
/-! PROOFS. The frame of the registers (O53): which registers of which bank an operation writes. -/

namespace Sys2Proof.Machine

/-! ### The relation -/

/-- Every register of every bank but those named in `l` is in `t` as in `s`; a 15 in `l` names no register. -/
def RegsKept (l : List (Mode × RegNum)) (s t : State) : Prop :=
  ∀ k : Fin 30, (∀ q ∈ l, q.2 ≠ 15#4 → k ≠ physIndex q.1 q.2) → t.regs[k] = s.regs[k]

/-- The registers are as they were. -/
theorem RegsKept.same {l : List (Mode × RegNum)} {s t : State} (h : t.regs = s.regs) : RegsKept l s t :=
  fun _ _ => by rw [h]

theorem RegsKept.trans {l : List (Mode × RegNum)} {s t u : State} (h : RegsKept l s t) (h' : RegsKept l t u) :
    RegsKept l s u :=
  fun k hk => (h' k hk).trans (h k hk)

/-- Then a write of a register that is named. -/
theorem RegsKept.setBankReg {l : List (Mode × RegNum)} {m : Mode} {i : RegNum} {s u : State} {v : Word}
    (h : RegsKept l s u) (hi : i ≠ 15#4) (hl : (m, i) ∈ l) : RegsKept l s (u.setBankReg m i v) := by
  intro k hk
  have hne : (physIndex m i : Nat) ≠ k := fun heq => hk _ hl hi (Fin.ext heq.symm)
  simp only [State.setBankReg_regs, Fin.getElem_fin, Vector.getElem_set, if_neg hne]
  exact h k hk

/-- The same in the current mode. -/
theorem RegsKept.setX {l : List (Mode × RegNum)} {m : Mode} {i : RegNum} {s u : State} {v : Word} (h : RegsKept l s u)
    (hm : u.cpsr.m = m) (hi : i ≠ 15#4) (hl : (m, i) ∈ l) : RegsKept l s (u.setX i v) :=
  h.setBankReg hi (hm ▸ hl)

/-- The same of a low register. -/
theorem RegsKept.setLo {l : List (Mode × RegNum)} {m : Mode} {r : LowReg} {s u : State} {v : Word} (h : RegsKept l s u)
    (hm : u.cpsr.m = m) (hl : (m, r.num) ∈ l) : RegsKept l s (u.setLo r v) :=
  h.setX hm (LowReg.num_ne r) hl

/-- Then a write of several registers, R15 skipped. -/
theorem RegsKept.writeRegs {l : List (Mode × RegNum)} {m : Mode} {vs : List (RegNum × Word)} {s u : State}
    (h : RegsKept l s u) (hl : ∀ p ∈ vs, p.1 = 15#4 ∨ (m, p.1) ∈ l) : RegsKept l s (writeRegs m vs u) := by
  induction vs generalizing u with
  | nil => exact h
  | cons p vs ih =>
    obtain ⟨hp, hvs⟩ := List.forall_mem_cons.mp hl
    simp only [Machine.writeRegs]
    split
    next => exact ih h hvs
    next hne => exact ih (h.setBankReg hne (hp.resolve_left hne)) hvs

/-- Then a register a service may write. -/
theorem RegsKept.setIfSome {l : List (Mode × RegNum)} {m : Mode} {i : RegNum} {s u : State} {v : Option Word}
    (h : RegsKept l s u) (hm : u.cpsr.m = m) (hi : i ≠ 15#4) (hl : (m, i) ∈ l) : RegsKept l s (setIfSome u i v) := by
  cases v with
  | none => exact h
  | some v => exact h.setX hm hi hl

/-- A register of a transferred list is among the names of the list. -/
theorem mem_names_of_mem_zip (m : Mode) {regs : List RegNum} {vs : List Word} {p : RegNum × Word} (hp : p ∈ regs.zip vs) :
    (m, p.1) ∈ regs.map (fun r => (m, r)) :=
  List.mem_map_of_mem (List.of_mem_zip hp).1

theorem MemRel.regsKept {l : List (Mode × RegNum)} {s t : State} (h : MemRel s t) : RegsKept l s t := .same h.regs

theorem runArm_kept {l : List (Mode × RegNum)} {c : Cond} {regs : List RegNum} {checks : State → Except Fault Unit}
    {body : State → Except Fault State} {s t : State}
    (hb : checks s.begun = .ok () → body s.begun = .ok t → RegsKept l s.begun t)
    (h : runArm c regs checks body s = .next t) : RegsKept l s t := by
  rcases runArm_next h with ⟨-, rfl⟩ | ⟨-, hchecks, hbody⟩
  · exact .same rfl
  · exact hb hchecks hbody

theorem runThumb_kept {l : List (Mode × RegNum)} {body : State → Except Fault State} {s t : State}
    (hb : body s.begun = .ok t → RegsKept l s.begun t) (h : runThumb body s = .next t) : RegsKept l s t :=
  hb (runThumb_next.mp h)

/-- A Thumb instruction whose body never faults. -/
theorem runThumb_total_kept {l : List (Mode × RegNum)} {f : State → State} {s t : State} (hf : RegsKept l s.begun (f s.begun))
    (h : runThumb (fun s => .ok (f s)) s = .next t) : RegsKept l s t := by
  cases runThumb_next.mp h
  exact hf

/-! ### What each operation does to the registers -/

theorem branchArm_regs {v : Word} {s t : State} (h : branchArm v s = .ok t) : t.regs = s.regs := by
  rw [branchArm_eq h]
  rfl

theorem exchange_regs {v : Word} {s t : State} (h : exchange v s = .ok t) : t.regs = s.regs := by
  rw [branchByT_eq h]
  rfl

theorem returnFromException_regs {saved target : Word} {s t : State} (h : returnFromException saved target s = .ok t) :
    t.regs = s.regs := by
  obtain ⟨p, -, rfl⟩ := returnFromException_eq h
  rfl

theorem dpReturn_regs {out : AluOut} {s t : State} (h : dpReturn out s = .ok t) : t.regs = s.regs := by
  simp only [dpReturn] at h
  split at h
  · exact returnFromException_regs h
  · obtain ⟨u, -, h⟩ := bind_eq_ok.mp h
    exact branchArm_regs (s := { s with cpsr := s.cpsr.setAlu out }) h

/-- Rd = 15 is a branch or a return, a compare writes no register (R450, R451). -/
theorem dpWrite_kept {op : DpOp} {f : Bool} {rd : RegNum} {out : AluOut} {s t : State} (h : dpWrite op f rd out s = .ok t) :
    RegsKept (if op.isCompare then [] else [(s.cpsr.m, rd)]) s t := by
  simp only [dpWrite] at h
  split at h
  next =>
    cases h
    exact .same (by split <;> rfl)
  next hop =>
    rw [if_neg hop]
    split at h
    next =>
      split at h
      · exact .same (dpReturn_regs h)
      · exact .same (branchArm_regs h)
    next hrd =>
      cases h
      exact RegsKept.setX (.same (by split <;> rfl)) (by split <;> rfl) hrd (List.mem_singleton_self _)

theorem multiply_kept {c : Cond} {f : Bool} {rd : RegNum} {acc : Option RegNum} {rs rm : RegNum} {s t : State}
    (h : multiply c f rd acc rs rm s = .next t) : RegsKept [(s.cpsr.m, rd)] s t := by
  refine runArm_kept (fun hchecks h => ?_) h
  obtain ⟨-, hpc⟩ := seq_eq_ok.mp hchecks
  have hrd : rd ≠ 15#4 := fun hrd => by simp [checkNever_eq_ok, hrd] at hpc
  cases h
  exact RegsKept.setX (.same (by split <;> rfl)) (by split <;> rfl) hrd (List.mem_singleton_self _)

theorem longMultiply_kept {sg acc : Bool} {c : Cond} {f : Bool} {rdHi rdLo rs rm : RegNum} {s t : State}
    (h : longMultiply sg acc c f rdHi rdLo rs rm s = .next t) :
    RegsKept [(s.cpsr.m, rdHi), (s.cpsr.m, rdLo)] s t := by
  refine runArm_kept (fun hchecks h => ?_) h
  obtain ⟨-, hchecks⟩ := seq_eq_ok.mp hchecks
  obtain ⟨-, hpc⟩ := seq_eq_ok.mp hchecks
  have hhi : rdHi ≠ 15#4 := fun hhi => by simp [checkNever_eq_ok, hhi] at hpc
  have hlo : rdLo ≠ 15#4 := fun hlo => by simp [checkNever_eq_ok, hlo] at hpc
  cases h
  exact (RegsKept.setX (m := s.cpsr.m) (.same (by split <;> rfl)) (by split <;> rfl) hlo (by simp)).setX
    (m := s.cpsr.m) (by split <;> rfl) hhi (by simp)

theorem moveFromStatus_kept {c : Cond} {spsr : Bool} {rd : RegNum} {s t : State}
    (h : moveFromStatus c spsr rd s = .next t) : RegsKept [(s.cpsr.m, rd)] s t := by
  refine runArm_kept (fun hchecks h => ?_) h
  have hrd : rd ≠ 15#4 := of_decide_eq_false (checkNever_eq_ok.mp hchecks)
  obtain ⟨v, -, h⟩ := bind_eq_ok.mp h
  cases h
  exact RegsKept.setX (.same rfl) rfl hrd (List.mem_singleton_self _)

theorem moveToStatus_kept {l : List (Mode × RegNum)} {c : Cond} {spsr : Bool} {mask : BitVec 4} {o : Operand2} {s t : State}
    (h : moveToStatus c spsr mask o s = .next t) : RegsKept l s t := by
  refine runArm_kept (fun _ h => ?_) h
  cases spsr with
  | false =>
    obtain ⟨s', h1, h⟩ := bind_eq_ok.mp h
    obtain ⟨p, rfl, -⟩ := writeCpsr_eq h1
    cases h
    exact .same rfl
  | true =>
    obtain ⟨s', h1, h⟩ := bind_eq_ok.mp h
    obtain ⟨x, rfl⟩ := writeSpsr_eq h1
    cases h
    exact .same rfl

theorem branch_kept {c : Cond} {link : Bool} {off : BitVec 24} {s t : State} (h : branch c link off s = .next t) :
    RegsKept (if link then [(s.cpsr.m, 14#4)] else []) s t := by
  refine runArm_kept (fun _ h => ?_) h
  cases h
  cases link with
  | false => exact .same rfl
  | true => exact RegsKept.setX (.same rfl) rfl (by decide) (List.mem_singleton_self _)

theorem swap_kept {l k : Transfer} {c : Cond} {rn rd rm : RegNum} {s t : State} (h : swap l k c rn rd rm s = .next t) :
    RegsKept [(s.cpsr.m, rd)] s t := by
  refine runArm_kept (fun hchecks h => ?_) h
  obtain ⟨hpc, -⟩ := seq_eq_ok.mp hchecks
  have hrd : rd ≠ 15#4 := fun hrd => by simp [checkNever_eq_ok, hrd] at hpc
  obtain ⟨⟨v, s1⟩, h1, h⟩ := bind_eq_ok.mp h
  obtain ⟨s2, h2, h⟩ := bind_eq_ok.mp h
  cases h
  have hm := (loadValue_rel h1).trans (storeValue_rel h2)
  exact hm.regsKept.setX (congrArg Cpsr.m hm.cpsr) hrd (List.mem_singleton_self _)

/-! ### Single transfers -/

/-- Then the base, where it is written back: R15 never is (R601). -/
theorem RegsKept.writeBackBase {l : List (Mode × RegNum)} {m : Mode} {x : Indexing} {rn : RegNum} {s u : State} {v : Word}
    (h : RegsKept l s u) (hm : u.cpsr.m = m) (hpc : (rn = 15#4 && x.writesBack) = false)
    (hl : x.writesBack = true → (m, rn) ∈ l) : RegsKept l s (writeBackBase x rn v u) := by
  simp only [Machine.writeBackBase]
  split
  next hw => exact h.setX hm (fun hrn => by simp [hrn, hw] at hpc) (hl hw)
  next => exact h

/-- Then the destination of a load; R15 is a branch (R601, R612). -/
theorem RegsKept.finishLoad {l : List (Mode × RegNum)} {m : Mode} {rd : RegNum} {s u t : State} {v : Word}
    (h : RegsKept l s u) (hm : u.cpsr.m = m) (hl : (m, rd) ∈ l) (hf : finishLoad rd v u = .ok t) : RegsKept l s t := by
  simp only [Machine.finishLoad] at hf
  split at hf
  next => exact h.trans (.same (branchArm_regs hf))
  next hrd =>
    cases hf
    exact h.setX hm hrd hl

/-- A load writes Rd, and either transfer an updated base (R601). -/
theorem transferBody_kept {k : Transfer} {x : Indexing} {rn rd : RegNum} {o : Offset} {s t : State}
    (hpc : (rn = 15#4 && x.writesBack) = false) (h : transferBody k x rn rd o s = .ok t) :
    RegsKept ((if k.isLoad then [(s.cpsr.m, rd)] else []) ++ (if x.writesBack then [(s.cpsr.m, rn)] else [])) s t := by
  simp only [transferBody] at h
  split at h
  next hload =>
    obtain ⟨⟨v, s1⟩, h1, h⟩ := bind_eq_ok.mp h
    have hm := loadValue_rel h1
    have hmode : s1.cpsr.m = s.cpsr.m := congrArg Cpsr.m hm.cpsr
    refine (hm.regsKept.writeBackBase hmode hpc (fun hw => by simp [hw])).finishLoad (m := s.cpsr.m) ?_ ?_ h
    · rw [(writeBackBase_rel x rn _ s1).2.2, hmode]
    · simp [hload]
  next =>
    obtain ⟨s1, h1, h⟩ := bind_eq_ok.mp h
    cases h
    have hm := storeValue_rel h1
    exact hm.regsKept.writeBackBase (congrArg Cpsr.m hm.cpsr) hpc (fun hw => by simp [hw])

/-- The checks of modes 2 and 3 begin with the common ones, which pass no write-back into R15 (R601). -/
theorem transferChecks_base {k : Transfer} {x : Indexing} {rn rd : RegNum} {o : Offset} {s : State}
    {rest : Except Fault Unit} (h : (transferChecks k x rn rd o s >>= fun _ => rest) = .ok ()) :
    (rn = 15#4 && x.writesBack) = false := (transferChecks_eq_ok.mp (seq_eq_ok.mp h).1).1

/-! ### Block transfers -/

/-- Then the base of a block transfer, where it is written back: R15 never is (log 15). -/
theorem RegsKept.writeBackBlock {l : List (Mode × RegNum)} {m : Mode} {w : Bool} {rn : RegNum} {s u : State} {v : Word}
    (h : RegsKept l s u) (hm : u.cpsr.m = m) (hl : w = true → (m, rn) ∈ l) : RegsKept l s (writeBackBlock w rn v u) := by
  simp only [Machine.writeBackBlock]
  split
  next hw =>
    simp only [Bool.and_eq_true, bne_iff_ne] at hw
    exact h.setX hm hw.2 (hl hw.1)
  next => exact h

theorem loadPc_regs {ub : Bool} {v : Word} {s t : State} (h : loadPc ub v s = .ok t) : t.regs = s.regs := by
  simp only [loadPc] at h
  split at h
  · split at h
    · exact returnFromException_regs h
    · obtain ⟨u, -, h⟩ := bind_eq_ok.mp h
      exact branchArm_regs h
  · exact branchArm_regs h

theorem loadMultiple_kept {bm : BlockMode} {ub w : Bool} {rn : RegNum} {list : BitVec 16} {s t : State}
    (h : loadMultiple bm ub w rn list s = .ok t) :
    RegsKept ((regList list).map (fun r => (blockBank true ub list s.cpsr.m, r)) ++ (if w then [(s.cpsr.m, rn)] else []))
      s t := by
  simp only [loadMultiple] at h
  obtain ⟨⟨vs, s1⟩, h1, h⟩ := bind_eq_ok.mp h
  have hm := (loadWords_rel h1).1
  have hwritten := (hm.regsKept.writeBackBlock (w := w) (rn := rn)
    (l := (regList list).map (fun r => (blockBank true ub list s.cpsr.m, r)) ++ (if w then [(s.cpsr.m, rn)] else []))
    (v := bm.writeBack (s.x 8 rn) (blockCount list)) (congrArg Cpsr.m hm.cpsr) (fun hw => by simp [hw])).writeRegs
    (m := blockBank true ub list s.cpsr.m) (vs := (regList list).zip vs)
    (fun p hp => .inr (List.mem_append_left _ (mem_names_of_mem_zip _ hp)))
  split at h
  · exact hwritten.trans (.same (loadPc_regs h))
  · cases h
    exact hwritten

/-- The empty list loads R15 alone: only the base is written (R657). -/
theorem loadEmpty_kept {l : List (Mode × RegNum)} {bm : BlockMode} {w : Bool} {rn : RegNum} {s t : State}
    (hl : w = true → (s.cpsr.m, rn) ∈ l) (h : loadEmpty bm w rn s = .ok t) : RegsKept l s t := by
  obtain ⟨⟨v, s1⟩, h1, h⟩ := bind_eq_ok.mp h
  have hm := busLoad_rel h1
  exact (hm.regsKept.writeBackBlock (congrArg Cpsr.m hm.cpsr) hl).trans (.same (branchArm_regs h))

theorem blockLoad_kept {bm : BlockMode} {c : Cond} {ub w : Bool} {rn : RegNum} {list : BitVec 16} {s t : State}
    (h : blockLoad bm c ub w rn list s = .next t) :
    RegsKept ((regList list).map (fun r => (blockBank true ub list s.cpsr.m, r)) ++ (if w then [(s.cpsr.m, rn)] else []))
      s t := by
  refine runArm_kept (fun _ h => ?_) h
  split at h
  · exact loadEmpty_kept (fun hw => by simp [hw]) h
  · exact loadMultiple_kept (s := s.begun) h

theorem blockStore_kept {bm : BlockMode} {c : Cond} {ub w : Bool} {rn : RegNum} {list : BitVec 16} {s t : State}
    (h : blockStore bm c ub w rn list s = .next t) : RegsKept (if w then [(s.cpsr.m, rn)] else []) s t := by
  refine runArm_kept (fun _ h => ?_) h
  obtain ⟨s1, h1, h⟩ := bind_eq_ok.mp h
  cases h
  have hm := storeWords_rel h1
  exact hm.regsKept.writeBackBlock (congrArg Cpsr.m hm.cpsr) (fun hw => by simp [hw])

/-! ### Exceptions and the service -/

/-- An exception writes R14 of the mode it enters (R920). -/
theorem takeException_kept (e : Exc) (lr : Word) (s : State) : RegsKept [(e.mode, 14#4)] s (takeException e lr s) :=
  RegsKept.setBankReg (.same rfl) (by decide) (List.mem_singleton_self _)

theorem undefined_kept {bits w : Word} {s t : State} (h : undefined bits w s = .ok t) : RegsKept [(.und, 14#4)] s t := by
  rw [undefined_eq h]
  exact takeException_kept .undefined _ s

/-- A service writes R0 to R3 of the current mode at most (R915). -/
theorem runScript_kept {x : SwiScript} {s t : State} (h : runScript x s = .ok t) :
    RegsKept [(s.cpsr.m, 0#4), (s.cpsr.m, 1#4), (s.cpsr.m, 2#4), (s.cpsr.m, 3#4)] s t := by
  obtain ⟨s1, h1, h⟩ := bind_eq_ok.mp h
  cases h
  have hm := swiAccesses_rel h1
  have hmode : s1.cpsr.m = s.cpsr.m := congrArg Cpsr.m hm.cpsr
  have hstep : ∀ {u : State} (i : RegNum) (v : Option Word), u.cpsr.m = s.cpsr.m → (setIfSome u i v).cpsr.m = s.cpsr.m :=
    fun i v hu => by rw [(setIfSome_pc _ i v).2.1, hu]
  have hmode0 := hstep 0#4 x.r0 hmode
  have hmode1 := hstep 1#4 x.r1 hmode0
  have hmode2 := hstep 2#4 x.r2 hmode1
  exact .setIfSome (.setIfSome (.setIfSome (.setIfSome hm.regsKept hmode (by decide) (by simp)) hmode0 (by decide)
    (by simp)) hmode1 (by decide) (by simp)) hmode2 (by decide) (by simp)

theorem swiService_kept {k : SwiCall} {s t : State} (h : swiService k s = .ok t) :
    RegsKept [(s.cpsr.m, 0#4), (s.cpsr.m, 1#4), (s.cpsr.m, 2#4), (s.cpsr.m, 3#4)] s t :=
  runScript_kept (s := { s with draws := s.draws + 1, swiCalls := s.swiCalls ++ [k] }) h

theorem softwareInterrupt_kept {value : BitVec 8} {k : SwiCall} {w : Word} {s t : State}
    (h : softwareInterrupt k w s = .ok t) : RegsKept ((Shape.tSwi value).writes s) s t := by
  rcases softwareInterrupt_cases h with ⟨htrap, rfl⟩ | ⟨hext, s', hs, rfl⟩
  · simp only [Shape.writes, htrap]
    exact takeException_kept .swi _ s
  · simp only [Shape.writes, hext]
    exact (swiService_kept hs).trans (.same rfl)

/-! ### Thumb -/

theorem thumbCompute_kept {rd : LowReg} {f : State → AluOut} {s t : State} (h : thumbCompute rd f s = .next t) :
    RegsKept [(s.cpsr.m, rd.num)] s t :=
  runThumb_total_kept (RegsKept.setLo (.same rfl) rfl (List.mem_singleton_self _)) h

theorem thumbCompare_kept {l : List (Mode × RegNum)} {f : State → AluOut} {s t : State} (h : thumbCompare f s = .next t) :
    RegsKept l s t := runThumb_total_kept (.same rfl) h

theorem thumbAddress_kept {rd : LowReg} {f : State → Word} {s t : State} (h : thumbAddress rd f s = .next t) :
    RegsKept [(s.cpsr.m, rd.num)] s t :=
  runThumb_total_kept (RegsKept.setLo (.same rfl) rfl (List.mem_singleton_self _)) h

theorem thumbHi_kept {m d : RegNum} {f : State → Word} {s t : State} (h : thumbHi m d f s = .next t) :
    RegsKept [(s.cpsr.m, d)] s t := by
  refine runThumb_kept (fun h => ?_) h
  obtain ⟨u, -, h⟩ := bind_eq_ok.mp h
  cases h
  simp only [thumbHiWrite]
  split
  next => exact .same rfl
  next hd => exact RegsKept.setX (.same rfl) rfl hd (List.mem_singleton_self _)

theorem thumbHiCompare_kept {l : List (Mode × RegNum)} {m d : RegNum} {s t : State} (h : thumbHiCompare m d s = .next t) :
    RegsKept l s t := by
  refine runThumb_kept (fun h => ?_) h
  obtain ⟨u, -, h⟩ := bind_eq_ok.mp h
  obtain ⟨u, -, h⟩ := bind_eq_ok.mp h
  cases h
  exact .same rfl

theorem thumbMultiply_kept {rs rd : LowReg} {s t : State} (h : thumbMultiply rs rd s = .next t) :
    RegsKept [(s.cpsr.m, rd.num)] s t := by
  refine runThumb_kept (fun h => ?_) h
  obtain ⟨u, -, h⟩ := bind_eq_ok.mp h
  cases h
  exact RegsKept.setLo (.same rfl) rfl (List.mem_singleton_self _)

theorem adjustSp_kept {sub : Bool} {imm : BitVec 7} {s t : State} (h : execTAdjustSp sub imm s = .next t) :
    RegsKept [(s.cpsr.m, 13#4)] s t :=
  runThumb_total_kept (RegsKept.setX (.same rfl) rfl (by decide) (List.mem_singleton_self _)) h

theorem thumbLoad_kept {k : Transfer} {rd : LowReg} {f : State → Word} {s t : State} (h : thumbLoad k rd f s = .next t) :
    RegsKept [(s.cpsr.m, rd.num)] s t := by
  refine runThumb_kept (fun h => ?_) h
  obtain ⟨⟨v, s1⟩, h1, h⟩ := bind_eq_ok.mp h
  cases h
  have hm := loadValue_rel h1
  exact hm.regsKept.setLo (congrArg Cpsr.m hm.cpsr) (List.mem_singleton_self _)

theorem thumbStore_kept {l : List (Mode × RegNum)} {k : Transfer} {rd : LowReg} {f : State → Word} {s t : State}
    (h : thumbStore k rd f s = .next t) : RegsKept l s t := by
  refine runThumb_kept (fun h => ?_) h
  obtain ⟨s1, h1, h⟩ := bind_eq_ok.mp h
  cases h
  exact (storeValue_rel h1).regsKept

theorem push_kept {r : Bool} {list : BitVec 8} {s t : State} (h : push r list s = .next t) :
    RegsKept [(s.cpsr.m, 13#4)] s t := by
  refine runThumb_kept (fun h => ?_) h
  obtain ⟨u, -, h⟩ := bind_eq_ok.mp h
  obtain ⟨s1, h1, h⟩ := bind_eq_ok.mp h
  cases h
  have hm := storeWords_rel h1
  exact hm.regsKept.setX (congrArg Cpsr.m hm.cpsr) (by decide) (List.mem_singleton_self _)

/-- A register POP loads is R15 or in the list (R771). -/
theorem mem_stackRegs_pc {r : Bool} {list : BitVec 8} {i : RegNum} (h : i ∈ stackRegs r 15#4 list) :
    i = 15#4 ∨ i ∈ lowList list := by
  cases r with
  | false => exact .inr (by simpa [stackRegs] using h)
  | true => simpa [stackRegs, or_comm] using h

theorem pop_kept {r : Bool} {list : BitVec 8} {s t : State} (h : pop r list s = .next t) :
    RegsKept ((s.cpsr.m, 13#4) :: (lowList list).map (fun i => (s.cpsr.m, i))) s t := by
  refine runThumb_kept (fun h => ?_) h
  obtain ⟨u, -, h⟩ := bind_eq_ok.mp h
  obtain ⟨⟨vs, s1⟩, h1, h⟩ := bind_eq_ok.mp h
  cases h
  have hm := (loadWords_rel h1).1
  have hlist := hm.regsKept.writeRegs (l := (s.cpsr.m, 13#4) :: (lowList list).map (fun i => (s.cpsr.m, i)))
    (m := s.cpsr.m) (vs := (stackRegs r 15#4 list).zip vs) (fun p hp =>
      (mem_stackRegs_pc (List.of_mem_zip hp).1).imp_right fun hmem => List.mem_cons_of_mem _ (List.mem_map_of_mem hmem))
  have hmode := congrArg Cpsr.m ((writeRegs_pc s.cpsr.m ((stackRegs r 15#4 list).zip vs) s1).2.1.trans hm.cpsr)
  have hsp := hlist.setX (v := BlockMode.ia.writeBack (s.x 4 13#4) (stackRegs r 15#4 list).length) hmode (by decide)
    List.mem_cons_self
  cases r <;> exact hsp

theorem thumbStoreMultiple_kept {rb : LowReg} {list : BitVec 8} {s t : State}
    (h : thumbStoreMultiple rb list s = .next t) : RegsKept [(s.cpsr.m, rb.num)] s t := by
  refine runThumb_kept (fun h => ?_) h
  obtain ⟨u, -, h⟩ := bind_eq_ok.mp h
  obtain ⟨u, -, h⟩ := bind_eq_ok.mp h
  obtain ⟨s1, h1, h⟩ := bind_eq_ok.mp h
  cases h
  have hm := storeWords_rel h1
  exact hm.regsKept.setLo (congrArg Cpsr.m hm.cpsr) (List.mem_singleton_self _)

theorem thumbLoadMultiple_kept {rb : LowReg} {list : BitVec 8} {s t : State}
    (h : thumbLoadMultiple rb list s = .next t) :
    RegsKept ((s.cpsr.m, rb.num) :: (lowList list).map (fun i => (s.cpsr.m, i))) s t := by
  refine runThumb_kept (fun h => ?_) h
  obtain ⟨u, -, h⟩ := bind_eq_ok.mp h
  obtain ⟨⟨vs, s1⟩, h1, h⟩ := bind_eq_ok.mp h
  cases h
  have hm := (loadWords_rel h1).1
  exact (hm.regsKept.setLo (congrArg Cpsr.m hm.cpsr) List.mem_cons_self).writeRegs fun p hp =>
    .inr (List.mem_cons_of_mem _ (mem_names_of_mem_zip _ hp))

theorem thumbBranchIf_kept {l : List (Mode × RegNum)} {c : Cond} {off : BitVec 8} {s t : State}
    (h : thumbBranchIf c off s = .next t) : RegsKept l s t :=
  runThumb_total_kept (.same (by split <;> rfl)) h

theorem thumbBranch_kept {l : List (Mode × RegNum)} {off : BitVec 11} {s t : State} (h : thumbBranch off s = .next t) :
    RegsKept l s t := runThumb_total_kept (.same rfl) h

theorem blPrefix_kept {off : BitVec 11} {s t : State} (h : blPrefix off s = .next t) : RegsKept [(s.cpsr.m, 14#4)] s t :=
  runThumb_total_kept (RegsKept.setX (.same rfl) rfl (by decide) (List.mem_singleton_self _)) h

theorem blSuffix_kept {off : BitVec 11} {s t : State} (h : blSuffix off s = .next t) : RegsKept [(s.cpsr.m, 14#4)] s t :=
  runThumb_total_kept (RegsKept.setX (.same rfl) rfl (by decide) (List.mem_singleton_self _)) h

/-! ### Every instruction -/

/-- An instruction writes only the registers its shape names (R102, R103). -/
theorem runShape_kept {sh : Shape} {s t : State} (h : runShape sh s = .next t) : RegsKept (sh.writes s) s t := by
  cases sh with
  | dataProc => exact runArm_kept (fun _ => dpWrite_kept) h
  | multiply => exact multiply_kept h
  | longMultiply => exact longMultiply_kept h
  | mrs => exact moveFromStatus_kept h
  | msr => exact moveToStatus_kept h
  | bx => exact runArm_kept (fun _ hx => .same (exchange_regs hx)) h
  | branch => exact branch_kept h
  | swap => exact swap_kept h
  | transfer =>
    simp only [runShape] at h
    split at h <;> exact runArm_kept (fun hchecks => transferBody_kept (transferChecks_base hchecks)) h
  | block load =>
    cases load with
    | false => exact blockStore_kept h
    | true => exact blockLoad_kept h
  | undefArm => exact runArm_kept (fun _ => undefined_kept) h
  | swi => exact runArm_kept (fun _ => softwareInterrupt_kept (value := 0#8)) h
  | tShift => exact thumbCompute_kept h
  | tAlu op =>
    simp only [runShape] at h
    split at h
    next => exact thumbCompare_kept h
    next hop =>
      simp only [Shape.writes, if_neg hop]
      exact thumbCompute_kept h
  | tMul => exact thumbMultiply_kept h
  | tHi op =>
    simp only [runShape] at h
    split at h
    next => exact thumbHi_kept h
    next => exact thumbHiCompare_kept h
    next hop =>
      simp only [Shape.writes, if_neg hop]
      exact thumbHi_kept h
  | tBx => exact runThumb_kept (fun hx => .same (exchange_regs hx)) h
  | tAddress =>
    simp only [runShape] at h
    split at h <;> exact thumbAddress_kept h
  | tAdjustSp => exact adjustSp_kept h
  | tTransfer =>
    simp only [runShape] at h
    split at h
    next hload =>
      simp only [Shape.writes, if_pos hload]
      exact thumbLoad_kept h
    next => exact thumbStore_kept h
  | tPush => exact push_kept h
  | tPop => exact pop_kept h
  | tBlock load =>
    cases load with
    | false => exact thumbStoreMultiple_kept h
    | true => exact thumbLoadMultiple_kept h
  | tBranchIf => exact thumbBranchIf_kept h
  | tUnd => exact runThumb_kept undefined_kept h
  | tSwi => exact runThumb_kept (softwareInterrupt_kept (value := 0#8)) h
  | tB => exact thumbBranch_kept h
  | tBl suffix =>
    cases suffix with
    | false => exact blPrefix_kept h
    | true => exact blSuffix_kept h

/-- Settles O53: by shape, each write of a register being one the shape names. -/
theorem registerFrame : Obligations.RegisterFrame := by
  intro i s t m j h _ hj
  rw [exec_eq_runShape] at h
  exact runShape_kept h (physIndex m j) hj

end Sys2Proof.Machine
end

section
/-! PROOFS. Every step keeps the invariant (O12). -/

namespace Sys2Proof.Machine

/-- The invariant is that of memory and the units, an aligned pc, and a schedule of well-formed turns. -/
theorem DataInv.inv {s : State} (h : DataInv s) (hpc : s.pcAligned = true) (hsched : s.schedule.all Turn.wf = true) : s.Inv :=
  ⟨h.sizes, hpc, h.mem, h.save, h.proxy, hsched⟩

/-- Taking the next turn off the schedule keeps the invariant, and the turn is a well-formed one. -/
theorem State.nextTurn_keeps {s u : State} {turn : Turn} (hs : s.Inv) (h : s.nextTurn = (turn, u)) :
    u.Inv ∧ turn.wf = true := by
  have hall := hs.schedule
  simp only [State.nextTurn] at h
  split at h
  next =>
    cases h
    exact ⟨hs, rfl⟩
  next head rest hrest =>
    cases h
    rw [hrest, List.all_cons, Bool.and_eq_true] at hall
    exact ⟨⟨hs.sizes, hs.pc, hs.mem, hs.save, hs.proxy, hall.2⟩, hall.1⟩

/-- A fetch moves neither the pc nor T: it keeps the invariant, and the code word is of the state's instruction set. -/
theorem fetch_keeps {s t : State} {k : Code} (hs : s.Inv) (h : fetch s = .ok (k, t)) :
    t.Inv ∧ ∃ w : Word, k = if t.cpsr.t then .thumb (w.setWidth 16) else .arm w := by
  obtain ⟨hmem, w, hk⟩ := fetch_rel h
  obtain ⟨-, -, hpc, hcpsr, -, -, -, -, -, -, -, hsched, -⟩ := hmem.fields
  refine ⟨(hmem.inv hs.data).inv ?_ (hsched ▸ hs.schedule), w, hcpsr ▸ hk⟩
  rw [State.pcAligned, hpc, hcpsr]
  exact hs.pc

/-- A code word of the state's instruction set leaves the invariant. -/
theorem runCode_keeps {s t : State} {w : Word} (hs : s.Inv)
    (h : runCode (if s.cpsr.t then .thumb (w.setWidth 16) else .arm w) s = .next t) : t.Inv := by
  have hleaves : Leaves s.cpsr.t s t := by
    cases hT : s.cpsr.t <;> rw [hT] at h <;> exact runCode_leaves h
  exact (hleaves.rel.inv hs.data).inv (hleaves.pc rfl hs.pc) (hleaves.rel.rest.schedule ▸ hs.schedule)

/-- The CPU unit's turn keeps the invariant: an interrupt enters at an aligned vector, an instruction leaves an aligned pc. -/
theorem cpuStep_keeps {s t : State} (hs : s.Inv) (h : cpuStep s = .next t) : t.Inv := by
  simp only [cpuStep, runInstruction] at h
  split at h
  next e _ =>
    cases h
    obtain ⟨hdata, hpc⟩ := enterInterrupt_keeps (e := e) hs.data
    exact hdata.inv hpc hs.schedule
  next =>
    split at h
    next => cases h
    next k u hfetch =>
      obtain ⟨hu, w, rfl⟩ := fetch_keeps hs hfetch
      exact runCode_keeps hu h

/-- Settles O12: by whose turn it is, the CPU unit's (`cpuStep_keeps`) or another agent's (`hostStep_keeps`). -/
theorem stepKeepsInv : Obligations.StepKeepsInv := by
  intro s t hs h
  simp only [step] at h
  split at h
  next u hturn => exact cpuStep_keeps (State.nextTurn_keeps hs hturn).1 h
  next e u hturn =>
    obtain ⟨hu, he⟩ := State.nextTurn_keeps hs hturn
    obtain ⟨hdata, hpc, hsched⟩ := hostStep_keeps he hu.data hu.pc (settle_eq_next.mp h)
    exact hdata.inv hpc (hsched ▸ hu.schedule)

end Sys2Proof.Machine
end

section
/-! PROOFS. The memory interface at RAM, ROM, I/O and unmapped addresses, and the stores through it (O40, O41). -/

namespace Sys2Proof.Machine

/-! ### Aligned addresses -/

/-- The low two bits of an address as a number. -/
theorem toNat_low2 (a : Word) : (a.extractLsb' 0 2).toNat = a.toNat % 4 := by
  simp [BitVec.extractLsb'_toNat]

/-- A remainder by a power of two is the low bits. -/
theorem ofNat_mod_two_pow (a : Word) (k : Nat) : BitVec.ofNat 32 (a.toNat % 2 ^ k) = a &&& BitVec.ofNat 32 (2 ^ k - 1) := by
  refine BitVec.eq_of_getLsbD_eq fun j hj => ?_
  simp only [BitVec.getLsbD_and, BitVec.getLsbD_ofNat, Nat.testBit_mod_two_pow, Nat.testBit_two_pow_sub_one,
    BitVec.testBit_toNat, hj, decide_true, Bool.true_and]
  exact Bool.and_comm _ _

/-- A word is its high bits and its low bits, at complementary masks. -/
theorem and_add_and_compl (a c m : Word) (hdisjoint : c &&& m = 0#32) (hall : c ||| m = BitVec.allOnes 32) :
    (a &&& c) + (a &&& m) = a := by
  have h : a &&& c &&& (a &&& m) = 0#32 := by
    rw [BitVec.and_assoc, ← BitVec.and_assoc c, BitVec.and_comm c, BitVec.and_assoc a, hdisjoint]
    simp
  rw [BitVec.add_eq_or_of_and_eq_zero _ _ h, ← BitVec.and_or_distrib_left, hall, BitVec.and_allOnes]

/-- An address is the aligned word's and its byte's place in it (R211). -/
theorem alignWord_add_low (a : Word) : alignWord a + BitVec.ofNat 32 (a.toNat % 4) = a := by
  have hlow : BitVec.ofNat 32 (a.toNat % 4) = a &&& 3#32 := ofNat_mod_two_pow a 2
  rw [hlow]
  exact and_add_and_compl a _ _ (by decide) (by decide)

theorem alignHalf_add_low (a : Word) : alignHalf a + BitVec.ofNat 32 (a.toNat % 2) = a := by
  have hlow : BitVec.ofNat 32 (a.toNat % 2) = a &&& 1#32 := ofNat_mod_two_pow a 1
  rw [hlow]
  exact and_add_and_compl a _ _ (by decide) (by decide)

/-- Clearing the low bits is taking the remainder away (R212, R214). -/
theorem storeAddress_eq_sub (k : Transfer) (a : Word) :
    k.storeAddress a = a - BitVec.ofNat 32 (a.toNat % k.width.bytes) := by
  simp only [Transfer.storeAddress]
  cases k.width with
  | byte => simp [Nat.mod_one]
  | half => exact eq_sub_of_add_eq (alignHalf_add_low a)
  | word => exact eq_sub_of_add_eq (alignWord_add_low a)

theorem getLsbD_zero (a : Word) : a.getLsbD 0 = decide (a.toNat % 2 = 1) := by
  simp only [BitVec.getLsbD, Nat.testBit_zero]

/-- The place of a halfword in its aligned word. -/
theorem alignHalf_eq (a : Word) : alignHalf a = alignWord a + BitVec.ofNat 32 (a.toNat % 4 - a.toNat % 2) := by
  have h : a.toNat % 4 = (a.toNat % 4 - a.toNat % 2) + a.toNat % 2 := by omega
  rw [eq_sub_of_add_eq (alignHalf_add_low a), sub_eq_iff_eq_add, add_assoc, ← BitVec.ofNat_add, ← h, alignWord_add_low]

/-! ### Bytes put together (R205) -/

theorem setWidth_append_byte {n : Nat} (x : BitVec n) (b : Byte) :
    (x ++ b).setWidth 32 = b.setWidth 32 ||| x.setWidth 32 <<< 8 := by
  refine BitVec.eq_of_getLsbD_eq fun j hj => ?_
  simp only [BitVec.getLsbD_setWidth, BitVec.getLsbD_append, BitVec.getLsbD_or, BitVec.getLsbD_shiftLeft]
  by_cases h : j < 8
  · simp [h]
  · simp [h, hj, BitVec.getLsbD_of_ge b j (by omega), show j - 8 < 32 by omega]

theorem wordOfBytes_one (b : Byte) : wordOfBytes [b] = b.setWidth 32 := by simp [wordOfBytes]

theorem wordOfBytes_two (b c : Byte) : wordOfBytes [b, c] = (c ++ b).setWidth 32 := by
  rw [setWidth_append_byte, wordOfBytes, wordOfBytes_one]

theorem wordOfBytes_four (b c d e : Byte) : wordOfBytes [b, c, d, e] = (e ++ d ++ c ++ b : BitVec 32) := by
  have h : (e ++ d ++ c ++ b).setWidth 32 = (e ++ d ++ c ++ b) := BitVec.setWidth_eq _
  rw [← h, setWidth_append_byte, setWidth_append_byte, wordOfBytes, wordOfBytes, wordOfBytes_two]

/-- The low bytes of a value as a mask (R200). -/
theorem trimTo_eq (w : Width) (v : Word) : trimTo w v = v &&& BitVec.ofNat 32 (2 ^ (8 * w.bytes) - 1) := by
  cases w with
  | byte | half => rfl
  | word => exact (BitVec.and_allOnes (x := v)).symm

/-- A value of a width is below its bound. -/
theorem toNat_trimTo_lt (w : Width) (v : Word) : (trimTo w v).toNat < 2 ^ (8 * w.bytes) := by
  have h : (BitVec.ofNat 32 (2 ^ (8 * w.bytes) - 1)).toNat < 2 ^ (8 * w.bytes) := by cases w <;> decide
  rw [trimTo_eq, BitVec.toNat_and]
  exact Nat.lt_of_le_of_lt Nat.and_le_right h

/-! ### The memory interface by region -/

/-- A load from RAM or ROM whose bytes are all written gives them and changes nothing (R202, R205). -/
theorem busLoad_memory {w : Width} {a : Word} {s : State} {r : Region} {k : Nat} {f : Nat → Byte}
    (hr : r = .ram ∨ r = .rom) (ha : classify s.params a = some (r, k)) (hf : ∀ j < w.bytes, Memory.read s.mem (k + j) = some (f j)) :
    busLoad w a s = .ok (wordOfBytes ((List.range w.bytes).map f), s) := by
  have hload : memLoad s.mem k w.bytes a = .ok (wordOfBytes ((List.range w.bytes).map f)) := by
    simp only [memLoad, Memory.readN_ok s.mem k w.bytes f hf]
  rcases hr with rfl | rfl <;> simp [busLoad, ha, hload]

/-- A store to RAM writes its bytes. -/
theorem busStore_ram {w : Width} {a v : Word} {s : State} {k : Nat} (ha : classify s.params a = some (.ram, k)) :
    busStore w a v s = .ok { s with mem := Memory.writeN s.mem k w.bytes v } := by simp [busStore, ha]

/-- A store to RAM is read back. -/
theorem busLoad_busStore_ram {w : Width} {a v : Word} {s : State} {k : Nat} (ha : classify s.params a = some (.ram, k)) :
    busLoad w a { s with mem := Memory.writeN s.mem k w.bytes v } =
      .ok (v &&& BitVec.ofNat 32 (2 ^ (8 * w.bytes) - 1), { s with mem := Memory.writeN s.mem k w.bytes v }) := by
  simp [busLoad, ha, memLoad, Memory.readN_writeN]

/-- Outside its bytes a write of memory changes nothing. -/
theorem Memory.read_writeN_outside (m : Memory) (a n b : Nat) (v : Word) (h : b < a ∨ a + n ≤ b) :
    (m.writeN a n v).read b = m.read b := by
  rw [Memory.read_writeN, if_neg (by omega)]

/-- Inside, byte `j` is the value's. -/
theorem Memory.read_writeN_inside (m : Memory) (a n j : Nat) (v : Word) (h : j < n) :
    (m.writeN a n v).read (a + j) = some (v.extractLsb' (8 * j) 8) := by
  rw [Memory.read_writeN, if_pos (by omega), Nat.add_sub_cancel_left]
  rfl

/-- Settles O41: by the region, an I/O value trimmed to its width. -/
theorem otherRegions : Obligations.OtherRegions := by
  refine fun w a v s k => ⟨fun ha => ?_, fun ha => ⟨?_, trimTo w (Config.freeValue s.draws), toNat_trimTo_lt w _, ?_⟩,
    fun ha => ⟨?_, ?_⟩⟩
  · simp [busStore, ha]
  · simp [busStore, ha, trimTo_eq]
  · simp [busLoad, ha, draw]
  · simp [busStore, ha]
  · simp [busLoad, ha]

/-! ### The stores of the instructions -/

/-- A store of an instruction is the CPU unit's at the aligned address, an odd halfword by its alternative (R212, R214). -/
theorem storeValue_eq (k : Transfer) (a v : Word) (s : State) (hk : k.isLoad = false)
    (hodd : k = .strh → a.getLsbD 0 = true → s.params.arm7tdmiAlt = true) :
    storeValue k a v s = cpuStore k.width (k.storeAddress a) v s := by
  cases k with
  | str | strb => rfl
  | strh =>
    have hcheck : checkAlt (a.getLsbD 0) .misalignedHalfStore s = .ok () := by
      cases hlow : a.getLsbD 0 with
      | true => exact checkAlt_ok (.inl (hodd rfl hlow))
      | false => rfl
    simp only [storeValue, hcheck, ok_bind]
    rfl
  | ldr | ldrb | ldrh | ldrsb | ldrsh => cases hk

/-- A store of the CPU unit is served where the interface's is, and beside it records races alone. -/
theorem cpuStore_ok {w : Width} {a v : Word} {s u : State} (h : busStore w a v s = .ok u) :
    ∃ l, cpuStore w a v s = .ok { u with stale := l } := ⟨_, by simp only [cpuStore, h, ok_bind]; rfl⟩

/-- Settles O40: the bytes read after a write (`Memory.read_writeN`), at the address the instructions store at. -/
theorem storeThenLoad : Obligations.StoreThenLoad := by
  refine ⟨fun w a v s key ha => ⟨_, busStore_ram ha, rfl, busLoad_busStore_ram ha,
    fun k => Memory.read_writeN_outside _ _ _ _ _, fun j => Memory.read_writeN_inside _ _ _ _ _⟩,
    fun k a v s key hk ha hodd => ?_⟩
  rw [← storeAddress_eq_sub] at ha
  obtain ⟨l, hl⟩ := cpuStore_ok (busStore_ram (w := k.width) (v := v) ha)
  exact ⟨_, (storeValue_eq k a v s hk hodd).trans hl, rfl, fun b => Memory.read_writeN_outside _ _ _ _ _,
    fun j => Memory.read_writeN_inside _ _ _ _ _⟩

end Sys2Proof.Machine
end

section
/-! PROOFS. What the loads of the instructions deliver (O38, O39). -/

namespace Sys2Proof.Machine

/-! ### The word load (R211) -/

theorem loadValue_ldr (a : Word) (s : State) : loadValue .ldr a s =
    busLoad .word (a &&& 0xFFFFFFFC#32) s >>= fun r => .ok (r.1.rotateRight (8 * (a.toNat % 4)), r.2) := by
  rw [← toNat_low2]
  rfl

theorem loadValue_ldr_ok {a w : Word} {s s' : State} (h : busLoad .word (a &&& 0xFFFFFFFC#32) s = .ok (w, s')) :
    loadValue .ldr a s = .ok (w.rotateRight (8 * (a.toNat % 4)), s') := by
  rw [loadValue_ldr, h, ok_bind]

/-- Rotated right by `k` whole bytes, a word has its byte `k` lowest. -/
theorem rotateRight_low_byte (w : Word) (k : Nat) (hk : k < 4) :
    (w.rotateRight (8 * k)).extractLsb' 0 8 = w.extractLsb' (8 * k) 8 := by
  refine BitVec.eq_of_getLsbD_eq fun j hj => ?_
  rw [BitVec.getLsbD_extractLsb', BitVec.getLsbD_extractLsb', BitVec.getLsbD_rotateRight,
    Nat.mod_eq_of_lt (by omega), decide_eq_true (by omega : 0 + j < 32 - 8 * k), cond_true, Nat.zero_add]

/-! ### The instructions that load -/

/-- A shift left is a multiplication (R341). -/
theorem shiftLeft_eq_mul (v : Word) (n : Nat) : v <<< n = v * BitVec.ofNat 32 (2 ^ n) := by
  apply BitVec.eq_of_toNat_eq
  simp [Nat.shiftLeft_eq]

/-- The address of a Thumb transfer as the statements write it is the one its meaning computes. -/
theorem TAddr.eval_eq_value (o : TAddr) (s : State) : o.eval s = o.value s := by
  cases o with
  | pc imm => exact congrArg (pcAligned s + ·) (shiftLeft_eq_mul _ 2)
  | sp imm => exact congrArg₂ (· + ·) (State.x_of_ne s 4 13#4 (by decide)) (shiftLeft_eq_mul _ 2)
  | regs ro rb => exact congrArg₂ (· + ·) (State.lo_eq s rb) (State.lo_eq s ro)
  | off scale n rb => exact congrArg₂ (· + ·) (State.lo_eq s rb) (shiftLeft_eq_mul _ scale)

@[simp] theorem Offset.eval_begun (o : Offset) (s : State) : o.eval s.begun = o.eval s := by
  cases o <;> rfl

/-- A permitted ARM transfer that starts runs its body (R600, R620). -/
theorem transfer_runs {i : Instr} {k : Transfer} {c : Cond} {x : Indexing} {rn rd : RegNum} {o : Offset} {s : State}
    (hi : shapeOf i = .transfer k c x rn rd o) (hs : Starts (shapeOf i) s) (hp : Permits (shapeOf i) s) :
    exec i s = settleFrom s (transferBody k x rn rd o s.begun) := by
  rw [hi] at hs hp
  obtain ⟨hcond, hhazard⟩ := hs.arm rfl
  rw [exec_eq_runShape, hi, runShape]
  split
  next hmode =>
    have hchecks : mode2Checks k x rn rd o s.begun = .ok () := (mode2Checks_eq_ok hmode).mpr hp
    rw [transfer2, runArm_runs (regs := transferRegs rn rd o) hcond hhazard, hchecks, ok_bind]
  next hmode =>
    have hchecks : mode3Checks k x rn rd o s.begun = .ok () := (mode3Checks_eq_ok (eq_false_of_ne_true hmode)).mpr hp
    rw [transfer3, runArm_runs (regs := transferRegs rn rd o) hcond hhazard, hchecks, ok_bind]

/-- A load whose access is served writes the base back, then Rd (R601). -/
theorem transferBody_load {k : Transfer} {x : Indexing} {rn rd : RegNum} {o : Offset} {s s' : State} {v : Word}
    (hk : k.isLoad = true) (h : loadValue k (x.address (s.x 8 rn) (o.eval s)) s = .ok (v, s')) :
    transferBody k x rn rd o s = finishLoad rd v (writeBackBase x rn (x.moved (s.x 8 rn) (o.eval s)) s') := by
  simp only [transferBody, hk, if_true, h, ok_bind]

/-- Rd holds what the load delivered, the base's write-back before it (R601). -/
theorem transfer_load_delivers {i : Instr} {k : Transfer} {c : Cond} {x : Indexing} {rn rd : RegNum} {o : Offset}
    {s s' : State} {v : Word} (hi : shapeOf i = .transfer k c x rn rd o) (hk : k.isLoad = true) (hs : Starts (shapeOf i) s)
    (hp : Permits (shapeOf i) s) (hrd : rd ≠ 15#4)
    (h : loadValue k (x.address (s.x 8 rn) (o.eval s)) s.begun = .ok (v, s')) :
    ∃ t, exec i s = .next t ∧ t.bankReg s.cpsr.m rd = v := by
  have hmode : (writeBackBase x rn (x.moved (s.x 8 rn) (o.eval s)) s').cpsr.m = s.cpsr.m :=
    congrArg Cpsr.m ((writeBackBase_rel x rn _ s').2.2.trans (loadValue_rel h).cpsr)
  rw [transfer_runs hi hs hp, transferBody_load hk (by simpa using h), finishLoad, if_neg hrd, settleFrom_ok]
  refine ⟨_, rfl, ?_⟩
  rw [State.advance_bankReg, State.setX, State.begun_x, Offset.eval_begun, hmode, State.bankReg_setBankReg_same]

/-- SWP that goes on has put what its load delivers into Rd (R630); it never has R15 as base (R632). -/
theorem swap_delivers {i : Instr} {l k : Transfer} {c : Cond} {rn rd rm : RegNum} {s s' t : State} {v : Word}
    (hi : shapeOf i = .swap l k c rn rd rm) (hs : Starts (shapeOf i) s)
    (hload : loadValue l (s.bankReg s.cpsr.m rn) s.begun = .ok (v, s')) (h : exec i s = .next t) :
    t.bankReg s.cpsr.m rd = v := by
  rw [hi] at hs
  rw [exec_eq_runShape, hi, runShape, swap] at h
  rcases runArm_next h with ⟨hfails, -⟩ | ⟨-, hchecks, h⟩
  · rw [(hs.arm rfl).1] at hfails
    cases hfails
  · obtain ⟨hnever, -⟩ := seq_eq_ok.mp hchecks
    have hrn : rn ≠ 15#4 := fun hrn => by simp [checkNever_eq_ok, hrn] at hnever
    obtain ⟨r, hr, h⟩ := bind_eq_ok.mp h
    rw [State.x_of_ne _ _ _ hrn] at hr
    cases hload.symm.trans hr
    obtain ⟨s2, hstore, h⟩ := bind_eq_ok.mp h
    cases h
    have hmode : s2.cpsr.m = s.cpsr.m := congrArg Cpsr.m ((storeValue_rel hstore).cpsr.trans (loadValue_rel hload).cpsr)
    rw [State.advance_bankReg, State.setX, hmode, State.bankReg_setBankReg_same]

theorem thumbLoad_delivers {i : Instr} {k : Transfer} {rd : LowReg} {o : TAddr} {s s' : State} {v : Word}
    (hi : shapeOf i = .tTransfer k rd o) (hk : k.isLoad = true) (h : loadValue k (o.value s) s.begun = .ok (v, s')) :
    ∃ t, exec i s = .next t ∧ t.bankReg s.cpsr.m rd.num = v := by
  have haddr : o.eval s.begun = o.value s := TAddr.eval_eq_value o s.begun
  rw [exec_eq_runShape, hi, runShape, if_pos hk, thumbLoad, runThumb_runs, haddr, h, ok_bind]
  refine ⟨_, rfl, ?_⟩
  have hmode : s'.cpsr.m = s.cpsr.m := congrArg Cpsr.m (loadValue_rel h).cpsr
  rw [State.advance_bankReg, State.setLo, State.setX, hmode, State.bankReg_setBankReg_same]

/-- Settles O38: the load rotates (`loadValue_ldr`), and each instruction delivers what its load gives. -/
theorem wordLoadRotates : Obligations.WordLoadRotates := by
  refine ⟨fun a s => ⟨fun w s' h => ⟨_, loadValue_ldr_ok h, rfl, rotateRight_low_byte w _ (Nat.mod_lt _ (by decide))⟩,
    fun f h => by rw [loadValue_ldr, h, error_bind]⟩, ?_, ?_, ?_⟩
  · intro i c x rn rd o a w s s' hi hs hp hrd ha h
    subst ha
    exact transfer_load_delivers hi rfl hs hp hrd (loadValue_ldr_ok h)
  · intro i c rn rd rm a w s s' t hi hs ha h hexec
    subst ha
    exact swap_delivers hi hs (loadValue_ldr_ok h) hexec
  · intro i rd o a w s s' hi ha h
    subst ha
    exact thumbLoad_delivers hi rfl (loadValue_ldr_ok h)

/-! ### Loads from memory -/

/-- The aligned word at `a` has its place at `key` in RAM or ROM and holds the bytes `f`. -/
structure WordAt (s : State) (a : Word) (r : Region) (key : Nat) (f : Nat → Byte) : Prop where
  memory : r = .ram ∨ r = .rom
  place : ∀ j < 4, classify s.params (alignWord a + BitVec.ofNat 32 j) = some (r, key + j)
  bytes : ∀ j < 4, Memory.read s.mem (key + j) = some (f j)

/-- A load of a width within the word gives its bytes from place `m` on. -/
theorem WordAt.busLoad {s : State} {a : Word} {r : Region} {key : Nat} {f : Nat → Byte} (h : WordAt s a r key f)
    {w : Width} {m : Nat} (hm : m + w.bytes ≤ 4) {b : Word} (hb : b = alignWord a + BitVec.ofNat 32 m) :
    busLoad w b s = .ok (wordOfBytes ((List.range w.bytes).map fun j => f (m + j)), s) := by
  have hw : 0 < w.bytes := by cases w <;> decide
  subst hb
  exact busLoad_memory h.memory (h.place m (by omega)) fun j hj => by
    rw [Nat.add_assoc]
    exact h.bytes (m + j) (by omega)

theorem WordAt.busLoad_byte {s : State} {a : Word} {r : Region} {key : Nat} {f : Nat → Byte} (h : WordAt s a r key f) :
    Machine.busLoad .byte a s = .ok ((f (a.toNat % 4)).setWidth 32, s) := by
  rw [h.busLoad (w := .byte) (m := a.toNat % 4) (by simp only [Width.bytes]; omega) (alignWord_add_low a).symm]
  exact congrArg (fun v => Except.ok (v, s)) (wordOfBytes_one _)

/-- The halfword `a` lies in, from its lower byte on. -/
theorem WordAt.busLoad_half {s : State} {a : Word} {r : Region} {key : Nat} {f : Nat → Byte} (h : WordAt s a r key f)
    {m : Nat} (hm : m = a.toNat % 4 - a.toNat % 2) :
    Machine.busLoad .half (alignHalf a) s = .ok ((f (m + 1) ++ f m).setWidth 32, s) := by
  rw [h.busLoad (w := .half) (m := m) (by simp only [Width.bytes]; omega) (hm ▸ alignHalf_eq a)]
  exact congrArg (fun v => Except.ok (v, s)) (wordOfBytes_two _ _)

theorem WordAt.busLoad_word {s : State} {a : Word} {r : Region} {key : Nat} {f : Nat → Byte} (h : WordAt s a r key f) :
    Machine.busLoad .word (alignWord a) s = .ok (f 3 ++ f 2 ++ f 1 ++ f 0, s) := by
  rw [h.busLoad (w := .word) (m := 0) (Nat.le_refl 4) (by simp)]
  exact congrArg (fun v => Except.ok (v, s)) (wordOfBytes_four _ _ _ _)

/-- An even address is its halfword's. -/
theorem alignHalf_of_even {a : Word} (h : a.toNat % 2 = 0) : alignHalf a = a := by
  have hsum := alignHalf_add_low a
  rwa [h, BitVec.add_zero] at hsum

/-- Settles O39: the bytes of the word at their places, each load by the parity of its address. -/
theorem loadsFromMemory : Obligations.LoadsFromMemory := by
  intro t a s r key f ht hr hplace hbytes halt
  have hword : WordAt s a r key f := ⟨hr, hplace, hbytes⟩
  have hbyte := hword.busLoad_byte
  cases t with
  | str | strb | strh => cases ht
  | ldr => rw [loadValue_ldr_ok hword.busLoad_word]
  | ldrb => exact hbyte
  | ldrsb => simp [loadValue, hbyte]
  | ldrh | ldrsh =>
    by_cases hodd : a.toNat % 2 = 1
    case pos =>
      have hlow : a.getLsbD 0 = true := by rw [getLsbD_zero, hodd]; rfl
      have hplace : a.toNat % 4 - a.toNat % 2 = a.toNat % 4 - 1 := by rw [hodd]
      have hhalf := hword.busLoad_half hplace.symm
      rw [show a.toNat % 4 - 1 + 1 = a.toNat % 4 by omega] at hhalf
      simp [loadValue, hlow, halt, unpredictable, hhalf, hbyte]
    case neg =>
      have hlow : a.getLsbD 0 = false := by rw [getLsbD_zero, decide_eq_false hodd]
      have hhalf := hword.busLoad_half (m := a.toNat % 4) (by omega)
      rw [alignHalf_of_even (by omega)] at hhalf
      simp only [loadValue, hlow, hhalf]
      simp

end Sys2Proof.Machine
end

section
/-! PROOFS. The savedata unit: the Flash chip, the widths of each chip, SRAM (O56, O57). -/

namespace Sys2Proof.Machine

/-! ### The buffer -/

theorem Assoc.get?_filter_key {α : Type} (m : Assoc α) (p : Nat → Bool) (a : Nat) :
    Assoc.get? (m.filter fun e => p e.1) a = if p a then Assoc.get? m a else none := by
  induction m with
  | nil => simp [Assoc.get?]
  | cons e rest ih =>
    obtain ⟨k, v⟩ := e
    by_cases hk : p k = true
    · simp only [List.filter_cons, hk, if_true, Assoc.get?, ih]
      by_cases hka : k = a
      · simp [← hka, hk]
      · simp [hka]
    · simp only [List.filter_cons, hk, Bool.false_eq_true, if_false, Assoc.get?, ih]
      by_cases hka : k = a
      · simp [← hka, hk]
      · simp [hka]

/-- An erased sector reads as FF, every other byte as before (R823). -/
theorem SaveBuffer.read_eraseSector (b : SaveBuffer) (n j : Nat) :
    (b.eraseSector n).read j = if j / 0x1000 = n then 0xFF#8 else b.read j := by
  have hcells : Assoc.get? (b.eraseSector n).cells j = if j / 0x1000 = n then none else Assoc.get? b.cells j := by
    rw [SaveBuffer.eraseSector, Assoc.get?_filter_key b.cells (fun k => k / 0x1000 != n)]
    by_cases h : j / 0x1000 = n <;> simp [h]
  have herased : (b.eraseSector n).erased.contains (j / 0x1000) =
      (decide (j / 0x1000 = n) || b.erased.contains (j / 0x1000)) := by
    rw [Bool.eq_iff_iff]
    simp [SaveBuffer.eraseSector, mem_insertNat]
  simp only [SaveBuffer.read, hcells, herased]
  by_cases h : j / 0x1000 = n <;> simp [h]

/-- An erased part reads as FF (R823). -/
theorem SaveBuffer.read_eraseAll (size j : Nat) (hsize : size % 0x1000 = 0) (hj : j < size) :
    (SaveBuffer.eraseAll size).read j = 0xFF#8 := by
  have h : (SaveBuffer.eraseAll size).erased.contains (j / 0x1000) = true := by
    simp only [SaveBuffer.eraseAll, List.contains_iff_mem, List.mem_range]
    omega
  simp only [SaveBuffer.read, SaveBuffer.eraseAll, Assoc.get?]
  exact if_pos h

/-- What a byte reads after `n` bytes of a value are written (R800). -/
theorem SaveBuffer.read_writeCells (b : SaveBuffer) (o n j : Nat) (v : Word) :
    ((cellsOf o n v).foldl (fun b e => b.write e.1 e.2) b).read j =
      if o ≤ j ∧ j < o + n then byteOf v (j - o) else b.read j := by
  induction n with
  | zero =>
    rw [if_neg (by omega)]
    rfl
  | succ n ih =>
    rw [cellsOf_succ, List.foldl_append, List.foldl_cons, List.foldl_nil, SaveBuffer.read_write, ih]
    by_cases h : o + n = j
    · subst h
      simp
    · by_cases hin : o ≤ j ∧ j < o + n
      · rw [if_neg h, if_pos hin, if_pos (by omega)]
      · rw [if_neg h, if_neg hin, if_neg (by omega)]

/-! ### The Flash command sequencer -/

/-- In the write state a store is one byte programmed (R824). -/
theorem flashStore8_write {kind : SaveKind} {x : Save} (o : Nat) (v : Byte) (h : x.flash.command = .write) :
    flashStore8 kind x o v = { x with
      buffer := x.buffer.write (flashIndex x.flash o) v
      writePending := true
      flash := { x.flash with command := .none } } := by simp only [flashStore8, h]

theorem flashStore8_idle {kind : SaveKind} {x : Save} (o : Nat) (v : Byte) (h : x.flash.command = .none) :
    flashStore8 kind x o v = { x with flash := flashIdleStore x.flash o v } := by simp only [flashStore8, h]

/-- In the erase state 10 at 5555 erases the part (R823). -/
theorem flashStore8_eraseAll {kind : SaveKind} {x : Save} (h : x.flash.command = .erase) :
    flashStore8 kind x 0x5555 0x10 = { x with
      buffer := SaveBuffer.eraseAll (flashSize kind)
      writePending := true
      flash := { x.flash with command := .none, pendingCommand := false } } := by
  simp [flashStore8, h]

/-- In the erase state 30 erases the sector of its offset (R823). -/
theorem flashStore8_eraseSector {kind : SaveKind} {x : Save} (o : Nat) (h : x.flash.command = .erase) :
    flashStore8 kind x o 0x30 = { x with
      buffer := x.buffer.eraseSector (flashIndex x.flash o / 0x1000)
      writePending := true
      flash := { x.flash with command := .none, pendingCommand := false } } := by
  simp [flashStore8, h]

/-- From idle the two unlock stores and A0 reach the write state, the unlock spent (R820, R821). -/
theorem flashStore8_unlockWrite {kind : SaveKind} {x : Save} (hcommand : x.flash.command = .none)
    (hpending : x.flash.pendingCommand = false) (hunlock : x.flash.unlock ≠ 2) :
    flashStore8 kind (flashStore8 kind (flashStore8 kind x 0x5555 0xAA) 0x2AAA 0x55) 0x5555 0xA0 =
      { x with flash := { x.flash with command := .write, unlock := 0 } } := by
  rw [flashStore8_idle _ _ hcommand]
  simp [flashIdleStore, hunlock, flashStore8, hcommand, hpending, flashCommand]

/-! ### An access routed to the unit -/

/-- An access routed to the unit is the unit's own (R201). -/
theorem busLoad_save {w : Width} {a : Word} {s : State} {o : Nat} (ha : classify s.params a = some (.save, o)) :
    busLoad w a s =
      stopAt s (saveLoad s.params s.dma3Enable s.save o w) >>= fun r => .ok (r.1, { s with save := r.2 }) := by
  simp [busLoad, ha]

theorem busStore_save {w : Width} {a v : Word} {s : State} {o : Nat} (ha : classify s.params a = some (.save, o)) :
    busStore w a v s = stopAt s (saveStore s.params s.dma3Count s.save o w v) >>= fun y => .ok { s with save := y } := by
  simp [busStore, ha]

theorem saveLoad_flash {p : Params} (hk : p.saveKind = .flash64 ∨ p.saveKind = .flash128) (enable : Bool) (x : Save)
    (o : Nat) : saveLoad p enable x o .byte = .ok ((flashLoad8 p.saveKind x o).setWidth 32, x) := by
  rcases hk with hk | hk <;> simp [saveLoad, hk]

theorem saveStore_flash {p : Params} (hk : p.saveKind = .flash64 ∨ p.saveKind = .flash128) (count : Nat) (x : Save)
    (o : Nat) (v : Word) : saveStore p count x o .byte v = .ok (flashStore8 p.saveKind x o (v.extractLsb' 0 8)) := by
  rcases hk with hk | hk <;> simp [saveStore, hk, byteOf]

/-- Flash takes bytes alone (R810). -/
theorem saveAccess_flash_width {p : Params} (hk : p.saveKind = .flash64 ∨ p.saveKind = .flash128) {w : Width}
    (hw : w ≠ .byte) (enable : Bool) (count : Nat) (x : Save) (o : Nat) (v : Word) :
    saveLoad p enable x o w = .error (.savedataWidth p.saveKind w) ∧
      saveStore p count x o w v = .error (.savedataWidth p.saveKind w) := by
  cases w with
  | byte => exact absurd rfl hw
  | half | word => rcases hk with hk | hk <;> simp [saveLoad, saveStore, hk]

/-- EEPROM takes halfwords alone (R830). -/
theorem saveAccess_eeprom_width {p : Params} (hk : p.saveKind = .eeprom) {w : Width} (hw : w ≠ .half) (enable : Bool)
    (count : Nat) (x : Save) (o : Nat) (v : Word) :
    saveLoad p enable x o w = .error (.savedataWidth .eeprom w) ∧
      saveStore p count x o w v = .error (.savedataWidth .eeprom w) := by
  cases w with
  | half => exact absurd rfl hw
  | byte | word => simp [saveLoad, saveStore, hk]

/-- Settles O56: three stores reach the write state (`flashStore8_unlockWrite`); the erases by what an erased buffer reads. -/
theorem flashWrites : Obligations.FlashWrites := by
  refine ⟨fun kind x o v hkind ho => ⟨fun hcommand hpending hunlock => ?_, fun herase => ?_, ?_⟩,
    fun a v s o hk ha => ?_⟩
  · rw [flashStore8_unlockWrite hcommand hpending hunlock, flashStore8_write o v rfl]
    refine ⟨fun j => ?_, rfl, rfl, rfl⟩
    simp only [SaveBuffer.read_write, flashIndex, eq_comm]
  · rw [flashStore8_eraseAll herase, flashStore8_eraseSector o herase]
    refine ⟨fun j hj => SaveBuffer.read_eraseAll _ j ?_ hj, fun j => ?_, rfl, rfl, rfl, rfl⟩
    · rcases hkind with rfl | rfl <;> rfl
    · rw [SaveBuffer.read_eraseSector]
      refine if_congr ?_ rfl rfl
      simp only [flashIndex]
      omega
  · simp only [flashLoad8, flashId, flashIndex, Bool.and_eq_true, decide_eq_true_eq]
    rcases hkind with rfl | rfl <;> rfl
  · rw [busStore_save ha, busLoad_save ha, saveStore_flash hk, saveLoad_flash hk]
    exact ⟨rfl, rfl⟩

/-! ### SRAM -/

theorem sramCheck_ok {size o n : Nat} (h : o + n ≤ size) : sramCheck size o n = .ok () := if_pos h

/-- The unit after a store of `n` bytes of a value to SRAM (R801). -/
def Save.written (x : Save) (o n : Nat) (v : Word) : Save :=
  { x with buffer := (cellsOf o n v).foldl (fun b e => b.write e.1 e.2) x.buffer, writePending := true }

/-- A store within the chip writes its bytes and sets `writePending` (R801). -/
theorem saveStore_sram {p : Params} (hk : p.saveKind = .sram) {o : Nat} {w : Width} (h : o + w.bytes ≤ p.sramSize)
    (count : Nat) (x : Save) (v : Word) : saveStore p count x o w v = .ok (x.written o w.bytes v) := by
  simp only [saveStore, hk, sramStore, sramCheck_ok h, ok_bind, pure_eq_ok, Save.written]

/-- A load within the chip gives its bytes (R800). -/
theorem saveLoad_sram {p : Params} (hk : p.saveKind = .sram) {o : Nat} {w : Width} (h : o + w.bytes ≤ p.sramSize)
    (enable : Bool) (x : Save) : saveLoad p enable x o w =
      .ok (wordOfBytes ((List.range w.bytes).map fun i => x.buffer.read (o + i)), x) := by
  simp only [saveLoad, hk, sramLoad, sramCheck_ok h, ok_bind, pure_eq_ok]

/-- Byte `j` of a value stored is read back. -/
theorem Save.read_written (x : Save) (o n j : Nat) (v : Word) (h : j < n) :
    (x.written o n v).buffer.read (o + j) = byteOf v j := by
  rw [Save.written, SaveBuffer.read_writeCells, if_pos (by omega), Nat.add_sub_cancel_left]

/-- A value stored is loaded, its low bytes zero-extended (R801, R205). -/
theorem saveLoad_written {p : Params} (hk : p.saveKind = .sram) {o : Nat} {w : Width} (h : o + w.bytes ≤ p.sramSize)
    (enable : Bool) (x : Save) (v : Word) : saveLoad p enable (x.written o w.bytes v) o w =
      .ok (v &&& BitVec.ofNat 32 (2 ^ (8 * w.bytes) - 1), x.written o w.bytes v) := by
  have hbytes : (List.range w.bytes).map (fun i => (x.written o w.bytes v).buffer.read (o + i)) =
      (List.range w.bytes).map (byteOf v) :=
    List.map_congr_left fun i hi => Save.read_written _ _ _ _ _ (List.mem_range.mp hi)
  rw [saveLoad_sram hk h, hbytes, wordOfBytes_byteOf]

/-! ### Accesses that are no width fault (R223) -/

theorem sramCheck_error {size o n : Nat} {r : FaultReason} (h : sramCheck size o n = .error r) :
    r = .savedataRange .sram (max o size) := by
  simp only [sramCheck] at h
  split at h <;> cases h
  rfl

theorem eepromCheck_error {size cursor : Nat} {r : FaultReason} (h : eepromCheck size cursor = .error r) :
    r = .eepromRange (cursor / 64) := by
  simp only [eepromCheck] at h
  split at h <;> cases h
  rfl

theorem eepromLatch_error {count : Nat} {b : Bool} {r : FaultReason} (h : eepromLatch count b = .error r) :
    ∃ n, r = .eepromAddressWidth n := by
  simp only [eepromLatch] at h
  generalize (count : Int) - (if b = true then 3 else 67) = width at h
  split at h
  · cases h
  · split at h <;> cases h
    exact ⟨width, rfl⟩

/-- The last address bit faults where its block is beyond the part (R837). -/
theorem eepromCursor_error {last : Prop} [Decidable last] {size cursor : Nat} {y : Save} {r : FaultReason}
    (h : (if last then eepromCheck size cursor >>= fun _ => .ok y else .ok y) = .error r) : ∃ n, r = .eepromRange n := by
  split at h
  · rcases bind_eq_error.mp h with h | ⟨u, -, h⟩
    · exact ⟨_, eepromCheck_error h⟩
    · cases h
  · cases h

/-- The protocol's own faults: an address width, a block beyond the part (R832, R837). -/
theorem eepromStore16_error {p : Params} {count : Nat} {x : Save} {b : Bool} {r : FaultReason}
    (h : eepromStore16 p count x b = .error r) : (∃ n, r = .eepromAddressWidth n) ∨ ∃ n, r = .eepromRange n := by
  simp only [eepromStore16, pure_eq_ok] at h
  split at h
  case h_1 =>
    split at h
    · rcases bind_eq_error.mp h with h | ⟨bits, -, h⟩
      · exact .inl (eepromLatch_error h)
      · split at h <;> cases h
    · rw [ok_bind] at h
      split at h <;> cases h
  case h_2 =>
    split at h
    · exact .inr (eepromCursor_error h)
    · split at h <;> cases h
  case h_3 =>
    split at h
    · exact .inr (eepromCursor_error h)
    · cases h
  case h_4 | h_5 => cases h

/-- The width is one the chip takes (R800, R810, R830). -/
def TakesWidth (kind : SaveKind) (w : Width) : Prop :=
  (kind = .eeprom ∧ w = .half) ∨ (kind ≠ .eeprom ∧ w = .byte) ∨ kind = .sram

/-- What an access of a width the chip takes can fault with: never the width. -/
theorem saveLoad_error {p : Params} {enable : Bool} {x : Save} {o : Nat} {w : Width} {r : FaultReason}
    (hw : TakesWidth p.saveKind w) (h : saveLoad p enable x o w = .error r) :
    r = .savedataRange .sram (max o p.sramSize) := by
  cases hk : p.saveKind with
  | sram =>
    simp only [saveLoad, hk, sramLoad, pure_eq_ok] at h
    rcases bind_eq_error.mp h with h | ⟨v, -, h⟩
    · rcases bind_eq_error.mp h with h | ⟨u, -, h⟩
      · exact sramCheck_error h
      · cases h
    · cases h
  | flash64 | flash128 =>
    have hbyte : w = .byte := by simpa [TakesWidth, hk] using hw
    simp [saveLoad, hk, hbyte] at h
  | eeprom =>
    have hhalf : w = .half := by simpa [TakesWidth, hk] using hw
    simp [saveLoad, hk, hhalf] at h

theorem saveStore_error {p : Params} {count : Nat} {x : Save} {o : Nat} {w : Width} {v : Word} {r : FaultReason}
    (hw : TakesWidth p.saveKind w) (h : saveStore p count x o w v = .error r) :
    r = .savedataRange .sram (max o p.sramSize) ∨ (∃ n, r = .eepromAddressWidth n) ∨ ∃ n, r = .eepromRange n := by
  cases hk : p.saveKind with
  | sram =>
    simp only [saveStore, hk, sramStore, pure_eq_ok] at h
    rcases bind_eq_error.mp h with h | ⟨u, -, h⟩
    · exact .inl (sramCheck_error h)
    · cases h
  | flash64 | flash128 =>
    have hbyte : w = .byte := by simpa [TakesWidth, hk] using hw
    simp [saveStore, hk, hbyte] at h
  | eeprom =>
    have hhalf : w = .half := by simpa [TakesWidth, hk] using hw
    simp only [saveStore, hk, hhalf] at h
    exact .inr (eepromStore16_error h)

/-- A fault of an access routed to the unit is the unit's. -/
theorem busLoad_save_error {w : Width} {a : Word} {s t : State} {o : Nat} {r : FaultReason}
    (ha : classify s.params a = some (.save, o)) (h : busLoad w a s = .error (.stop r t)) :
    saveLoad s.params s.dma3Enable s.save o w = .error r := by
  rw [busLoad_save ha] at h
  cases hx : saveLoad s.params s.dma3Enable s.save o w <;> rw [hx] at h <;> cases h
  rfl

theorem busStore_save_error {w : Width} {a v : Word} {s t : State} {o : Nat} {r : FaultReason}
    (ha : classify s.params a = some (.save, o)) (h : busStore w a v s = .error (.stop r t)) :
    saveStore s.params s.dma3Count s.save o w v = .error r := by
  rw [busStore_save ha] at h
  cases hx : saveStore s.params s.dma3Count s.save o w v <;> rw [hx] at h <;> cases h
  rfl

/-- Settles O57: by the chip, its widths and the faults its accesses can have. -/
theorem savedataWidths : Obligations.SavedataWidths := by
  refine fun w a v s o ha => ⟨fun hk hw => ?_, fun hk hw => ?_, fun htakes k w' t => ⟨fun h => ?_, fun h => ?_⟩,
    fun hk hfits => ?_⟩
  · obtain ⟨hload, hstore⟩ := saveAccess_flash_width hk hw s.dma3Enable s.dma3Count s.save o v
    rw [busLoad_save ha, busStore_save ha, hload, hstore]
    exact ⟨rfl, rfl⟩
  · obtain ⟨hload, hstore⟩ := saveAccess_eeprom_width hk hw s.dma3Enable s.dma3Count s.save o v
    rw [busLoad_save ha, busStore_save ha, hload, hstore]
    exact ⟨rfl, rfl⟩
  · cases saveLoad_error htakes (busLoad_save_error ha h)
  · rcases saveStore_error htakes (busStore_save_error ha h) with h | ⟨n, h⟩ | ⟨n, h⟩ <;> cases h
  · refine ⟨{ s with save := s.save.written o w.bytes v }, ?_, rfl, fun j hj => Save.read_written _ _ _ _ _ hj, ?_⟩
    · rw [busStore_save ha, saveStore_sram hk hfits]
      rfl
    · rw [busLoad_save (s := { s with save := s.save.written o w.bytes v }) ha, saveLoad_written hk hfits]
      rfl

end Sys2Proof.Machine
end

section
/-! PROOFS. Stores to and loads from the render proxy (O59). -/

namespace Sys2Proof.Machine

/-! ### Regions and marks -/

@[simp] theorem Proxy.region_mark (p : Params) (x : Proxy) (r r' : ProxyRegion) (o : Nat) :
    (x.mark p r o).region r' = x.region r' := by
  cases r <;> cases r' <;> rfl

theorem Proxy.region_setRegion (x : Proxy) (r r' : ProxyRegion) (m : Memory) :
    (x.setRegion r m).region r' = if r' = r then m else x.region r' := by
  cases r <;> cases r' <;> rfl

theorem Proxy.dirtyPalette_stored (p : Params) (x : Proxy) (r : ProxyRegion) (m : Memory) (o : Nat) :
    ((x.setRegion r m).mark p r o).dirtyPalette = if r = .palette then true else x.dirtyPalette := by
  cases r <;> rfl

theorem Proxy.dirtyOam_stored (p : Params) (x : Proxy) (r : ProxyRegion) (m : Memory) (o : Nat) :
    ((x.setRegion r m).mark p r o).dirtyOam = if r = .oam then true else x.dirtyOam := by
  cases r <;> rfl

theorem Proxy.dirtyVram_stored (p : Params) (x : Proxy) (r : ProxyRegion) (m : Memory) (o : Nat) :
    ((x.setRegion r m).mark p r o).dirtyVram =
      if r = .vram then insertNat (o / 2 ^ p.vramBlockShift) x.dirtyVram else x.dirtyVram := by
  rw [← Nat.shiftRight_eq_div_pow]
  cases r <;> rfl

/-- What a store at offset `o` of region `r` changes beside the region's bytes: its mark is set, all else is kept (R852). -/
structure MarkedIn (p : Params) (x : Proxy) (r : ProxyRegion) (o : Nat) (y : Proxy) : Prop where
  others : ∀ r', r' ≠ r → y.region r' = x.region r'
  marks : (r = .palette → y.dirtyPalette = true) ∧ (r = .oam → y.dirtyOam = true) ∧
    (r = .vram → ∀ k, k ∈ y.dirtyVram ↔ k = o / 2 ^ p.vramBlockShift ∨ k ∈ x.dirtyVram)
  palette : r ≠ .palette → y.dirtyPalette = x.dirtyPalette
  oam : r ≠ .oam → y.dirtyOam = x.dirtyOam
  vram : r ≠ .vram → y.dirtyVram = x.dirtyVram
  frame : y = { x with palette := y.palette, vram := y.vram, oam := y.oam, dirtyPalette := y.dirtyPalette,
                       dirtyOam := y.dirtyOam, dirtyVram := y.dirtyVram }

theorem MarkedIn.stored (p : Params) (x : Proxy) (r : ProxyRegion) (m : Memory) (o : Nat) :
    MarkedIn p x r o ((x.setRegion r m).mark p r o) where
  others r' h := by rw [Proxy.region_mark, Proxy.region_setRegion, if_neg h]
  marks := by
    refine ⟨fun h => ?_, fun h => ?_, fun h k => ?_⟩
    · rw [Proxy.dirtyPalette_stored, if_pos h]
    · rw [Proxy.dirtyOam_stored, if_pos h]
    · rw [Proxy.dirtyVram_stored, if_pos h, mem_insertNat]
  palette h := by rw [Proxy.dirtyPalette_stored, if_neg h]
  oam h := by rw [Proxy.dirtyOam_stored, if_neg h]
  vram h := by rw [Proxy.dirtyVram_stored, if_neg h]
  frame := by cases r <;> rfl

/-! ### The store -/

theorem proxyCheck_served {p : Params} {r : ProxyRegion} {o n : Nat} (h : o % n = 0 ∧ o + n ≤ proxySize p r) :
    proxyCheck p r o n = .ok () := if_pos h

theorem proxyCheck_fault {p : Params} {r : ProxyRegion} {o n : Nat} (h : ¬ (o % n = 0 ∧ o + n ≤ proxySize p r)) :
    proxyCheck p r o n = .error (.proxyAccess r o n) := if_neg h

/-- A store that is not a plain one is a mirrored byte store. -/
theorem mirrored_of_not_plain {p : Params} {w : Width} (h : ¬ (w ≠ .byte ∨ p.proxyByteStore = .single)) :
    w = .byte ∧ p.proxyByteStore = .mirrorHalfword := by
  obtain ⟨hw, hp⟩ := not_or.mp h
  cases hstore : p.proxyByteStore with
  | single => exact absurd hstore hp
  | mirrorHalfword => exact ⟨not_not.mp hw, rfl⟩

/-- A store of the low bytes of a value, where it is no mirrored byte (R851). -/
theorem proxyStore_plain {p : Params} {r : ProxyRegion} {o : Nat} {w : Width}
    (h : o % w.bytes = 0 ∧ o + w.bytes ≤ proxySize p r) (hw : w ≠ .byte ∨ p.proxyByteStore = .single) (x : Proxy) (v : Word) :
    proxyStore p x r o w v = .ok ((x.setRegion r (Memory.writeNZ (x.region r) o w.bytes v)).mark p r o) := by
  have hmirror : ¬ (w = .byte ∧ p.proxyByteStore = .mirrorHalfword) := by
    rintro ⟨hbyte, hmirror⟩
    simp [hbyte, hmirror] at hw
  simp only [proxyStore, proxyCheck_served h, ok_bind, if_neg hmirror, pure_eq_ok]

/-- A mirrored byte store (R851). -/
theorem proxyStore_mirror {p : Params} {r : ProxyRegion} {o : Nat}
    (h : o % Width.byte.bytes = 0 ∧ o + Width.byte.bytes ≤ proxySize p r)
    (hp : p.proxyByteStore = .mirrorHalfword) (x : Proxy) (v : Word) :
    proxyStore p x r o .byte v = .ok (proxyMirrorByte p x r o (byteOf v 0)) := by
  simp only [proxyStore, proxyCheck_served h, ok_bind, hp, and_self, if_true, pure_eq_ok]

theorem proxyMirrorByte_eq (p : Params) (x : Proxy) {r : ProxyRegion} (o : Nat) (v : Byte) (h : r ≠ .oam) :
    proxyMirrorByte p x r o v =
      (x.setRegion r (Memory.writeZ (Memory.writeZ (x.region r) (o - o % 2) v) (o - o % 2 + 1) v)).mark p r o := by
  cases r with
  | oam => exact absurd rfl h
  | palette | vram => rfl

/-- Both bytes of the halfword of `o` are the value's (R851). -/
theorem Memory.readZ_mirror (m : Memory) (o j : Nat) (v : Byte) :
    Memory.readZ (Memory.writeZ (Memory.writeZ m (o - o % 2) v) (o - o % 2 + 1) v) j =
      if j / 2 = o / 2 then v else Memory.readZ m j := by
  rw [Memory.readZ_writeZ, Memory.readZ_writeZ]
  by_cases h : j / 2 = o / 2
  · rw [if_pos h]
    split
    · rfl
    · exact if_pos (by omega)
  · rw [if_neg h, if_neg (by omega), if_neg (by omega)]

/-! ### An access routed to the proxy -/

/-- The region of the address space the proxy's region is (R201). -/
def ProxyRegion.routed : ProxyRegion → Region
  | .palette => .palette
  | .vram => .vram
  | .oam => .oam

theorem busStore_proxy {w : Width} {a v : Word} {s : State} {r : ProxyRegion} {o : Nat}
    (ha : classify s.params a = some (r.routed, o)) :
    busStore w a v s = stopAt s (proxyStore s.params s.proxy r o w v) >>= fun y => .ok { s with proxy := y } := by
  cases r <;> simp [busStore, ha, ProxyRegion.routed]

theorem busLoad_proxy {w : Width} {a : Word} {s : State} {r : ProxyRegion} {o : Nat}
    (ha : classify s.params a = some (r.routed, o)) :
    busLoad w a s = stopAt s (proxyLoad s.params s.proxy r o w) >>= fun v => .ok (v, s) := by
  cases r <;> simp [busLoad, ha, ProxyRegion.routed]

/-- Byte `j` of a value put together from bytes. -/
theorem extract_wordOfBytes (bs : List Byte) (j : Nat) (hj : j < 4) :
    (wordOfBytes bs).extractLsb' (8 * j) 8 = (bs[j]?).getD 0#8 := by
  refine BitVec.eq_of_getLsbD_eq fun i hi => ?_
  rw [BitVec.getLsbD_extractLsb', decide_eq_true hi, Bool.true_and, getLsbD_wordOfBytes bs _ (by omega),
    show (8 * j + i) / 8 = j by omega, show (8 * j + i) % 8 = i by omega]

/-- The bytes of a region as a value, zero-extended (R851). -/
theorem Memory.extract_readNZ (m : Memory) (o n j : Nat) (hj : j < 4) :
    (Memory.readNZ m o n).extractLsb' (8 * j) 8 = if j < n then Memory.readZ m (o + j) else 0#8 := by
  rw [Memory.readNZ, extract_wordOfBytes _ _ hj]
  by_cases h : j < n <;> simp [h]

/-- Settles O59: the store is plain, a mirrored byte, or a mirrored byte in OAM, which writes nothing; an access of the CPU is
the proxy's own. -/
theorem renderProxyStore : Obligations.ProxyStore := by
  refine ⟨fun p x r o w v => ⟨fun h => ?_, fun haligned hfits => ?_⟩, fun s r region o w a v hregion ha => ?_⟩
  · simp only [proxyStore, proxyCheck_fault h, error_bind]
  · by_cases hplain : w ≠ .byte ∨ p.proxyByteStore = .single
    case pos =>
      have hmarked := MarkedIn.stored p x r (Memory.writeNZ (x.region r) o w.bytes v) o
      refine ⟨_, proxyStore_plain ⟨haligned, hfits⟩ hplain x v, fun _ j => ?_, fun hw hp => ?_, fun hw hp => ?_,
        hmarked.others, fun _ => hmarked.marks, hmarked.palette, hmarked.oam, hmarked.vram, hmarked.frame⟩
      · rw [Proxy.region_mark, Proxy.region_setRegion, if_pos rfl, Memory.readZ_writeNZ]
        rfl
      · simp [hw, hp] at hplain
      · simp [hw, hp] at hplain
    case neg =>
      obtain ⟨rfl, hmirror⟩ := mirrored_of_not_plain hplain
      have hserved := proxyStore_mirror ⟨haligned, hfits⟩ hmirror x v
      by_cases hr : r = .oam
      case pos =>
        subst hr
        refine ⟨x, hserved, ?_⟩
        simp [hmirror]
      case neg =>
        rw [proxyMirrorByte_eq p x o _ hr] at hserved
        have hmarked := MarkedIn.stored p x r
          (Memory.writeZ (Memory.writeZ (x.region r) (o - o % 2) (byteOf v 0)) (o - o % 2 + 1) (byteOf v 0)) o
        refine ⟨_, hserved, fun h => absurd h hplain, fun _ _ _ j => ?_, fun _ _ h => absurd h hr,
          hmarked.others, fun _ => hmarked.marks, hmarked.palette, hmarked.oam, hmarked.vram, hmarked.frame⟩
        rw [Proxy.region_mark, Proxy.region_setRegion, if_pos rfl, Memory.readZ_mirror]
        rfl
  · have hrouted : region = r.routed := by
      rcases hregion with ⟨rfl, rfl⟩ | ⟨rfl, rfl⟩ | ⟨rfl, rfl⟩ <;> rfl
    subst hrouted
    rw [busStore_proxy ha, busLoad_proxy ha]
    refine ⟨fun y hy => ?_, fun h => ⟨?_, ?_⟩, fun haligned hfits => ?_⟩
    · rw [hy]
      rfl
    · simp only [proxyStore, proxyCheck_fault h, error_bind, stopAt_error]
    · simp only [proxyLoad, proxyCheck_fault h, error_bind, stopAt_error]
    · rw [proxyLoad, proxyCheck_served ⟨haligned, hfits⟩]
      exact ⟨_, rfl, fun j hj => Memory.extract_readNZ _ _ _ _ hj⟩

end Sys2Proof.Machine
end

section
/-! PROOFS. What the stores of an instruction can change (O52) and which races they record (O14): one relation for both, kept
by every access and by every update of the CPU unit's own fields. -/

namespace Sys2Proof.Machine

/-! ### Bytes by region and place -/

/-- The byte at a place of a region, as a byte load there reads it. -/
def State.byteIn (s : State) : Region → Nat → Option Byte
  | .ram, o | .rom, o => s.mem.read o
  | .palette, o => if o < s.params.paletteSize then some (Memory.readZ s.proxy.palette o) else none
  | .vram, o => if o < s.params.vramSize then some (Memory.readZ s.proxy.vram o) else none
  | .oam, o => if o < s.params.oamSize then some (Memory.readZ s.proxy.oam o) else none
  | .save, o => saveByte s.params s.save o
  | .io, _ => none

theorem State.byteAt_of_classify {s : State} {a : Word} {r : Region} {o : Nat} (h : classify s.params a = some (r, o)) :
    s.byteAt a = s.byteIn r o := by
  cases r <;> simp [State.byteAt, h, State.byteIn]

theorem State.byteAt_of_unmapped {s : State} {a : Word} (h : classify s.params a = none) : s.byteAt a = none := by
  simp [State.byteAt, h]

/-- A store of width `w` at place `o` of region `r` may change the byte at place `o'` of region `r'`: `Touches`, by places. -/
def Overlaps (p : Params) (w : Width) (r : Region) (o : Nat) (r' : Region) (o' : Nat) : Prop :=
  sharedRegion r = sharedRegion r' ∧ r ≠ .rom ∧ r ≠ .io ∧
    ((o ≤ o' ∧ o' < o + w.bytes) ∨ (r = .save ∧ p.saveKind ≠ .sram) ∨
      (p.proxyByteStore = .mirrorHalfword ∧ (r = .palette ∨ r = .vram) ∧ w = .byte ∧ o' / 2 = o / 2))

theorem touches_iff {p : Params} {w : Width} {a b : Word} {r r' : Region} {o o' : Nat} (ha : classify p a = some (r, o))
    (hb : classify p b = some (r', o')) : Touches p w a b ↔ Overlaps p w r o r' o' := by
  simp only [Touches, ha, hb, Overlaps]

/-! ### A store changes the bytes it touches alone -/

/-- A store to the proxy leaves the other regions, and of its own every byte but those stored or mirrored (R851). -/
theorem proxyStore_region {p : Params} {x y : Proxy} {r : ProxyRegion} {o : Nat} {w : Width} {v : Word}
    (h : proxyStore p x r o w v = .ok y) :
    (∀ r', r' ≠ r → y.region r' = x.region r') ∧
      ∀ j, ¬ (o ≤ j ∧ j < o + w.bytes) →
        ¬ (p.proxyByteStore = .mirrorHalfword ∧ r ≠ .oam ∧ w = .byte ∧ j / 2 = o / 2) →
        Memory.readZ (y.region r) j = Memory.readZ (x.region r) j := by
  obtain ⟨u, hcheck, -⟩ := bind_eq_ok.mp h
  obtain ⟨haligned, hfits⟩ := proxyCheck_ok hcheck
  obtain ⟨y', hy', hplain, hmirror, hoam, hothers, -⟩ := (renderProxyStore.1 p x r o w v).2 haligned hfits
  cases hy'.symm.trans h
  refine ⟨hothers, fun j hout hnot => ?_⟩
  by_cases hw : w ≠ .byte ∨ p.proxyByteStore = .single
  · rw [hplain hw j, if_neg hout]
  · obtain ⟨hbyte, hp⟩ := mirrored_of_not_plain hw
    by_cases hr : r = .oam
    · rw [hoam hbyte hp hr]
    · rw [hmirror hbyte hp hr j, if_neg fun hj => hnot ⟨hp, hr, hbyte, hj⟩]

theorem ProxyRegion.routed_ne (q : ProxyRegion) : q.routed ≠ .rom ∧ q.routed ≠ .io := by
  cases q <;> exact ⟨nofun, nofun⟩

theorem ProxyRegion.routed_of_ne_oam {q : ProxyRegion} (h : q ≠ .oam) : q.routed = .palette ∨ q.routed = .vram := by
  cases q with
  | palette => exact .inl rfl
  | vram => exact .inr rfl
  | oam => exact absurd rfl h

theorem State.byteIn_proxy (s : State) (r : ProxyRegion) (o : Nat) :
    s.byteIn r.routed o = if o < proxySize s.params r then some (Memory.readZ (s.proxy.region r) o) else none := by
  cases r <;> rfl

/-- A place outside the proxy reads as it does whatever the proxy holds. -/
theorem State.byteIn_setProxy (s : State) (x : Proxy) {r : Region} (o : Nat) (h : ∀ q : ProxyRegion, r ≠ q.routed) :
    State.byteIn { s with proxy := x } r o = s.byteIn r o := by
  cases r with
  | palette => exact absurd rfl (h .palette)
  | vram => exact absurd rfl (h .vram)
  | oam => exact absurd rfl (h .oam)
  | ram | rom | io | save => rfl

theorem busStore_byteIn_proxy {w : Width} {a v : Word} {s t : State} {q : ProxyRegion} {o : Nat} {r : Region} {j : Nat}
    (ha : classify s.params a = some (q.routed, o)) (h : busStore w a v s = .ok t)
    (hno : ¬ Overlaps s.params w q.routed o r j) : t.byteIn r j = s.byteIn r j := by
  rw [busStore_proxy ha] at h
  obtain ⟨y, hy, h⟩ := bind_eq_ok.mp h
  cases h
  obtain ⟨hothers, hbytes⟩ := proxyStore_region (stopAt_eq_ok.mp hy)
  by_cases hr : ∃ q' : ProxyRegion, r = q'.routed
  · obtain ⟨q', rfl⟩ := hr
    rw [State.byteIn_proxy, State.byteIn_proxy]
    by_cases hq : q' = q
    · subst hq
      obtain ⟨hrom, hio⟩ := ProxyRegion.routed_ne q'
      have hread := hbytes j (fun hin => hno ⟨rfl, hrom, hio, .inl hin⟩) fun ⟨hp, hoam, hbyte, hj⟩ =>
        hno ⟨rfl, hrom, hio, .inr (.inr ⟨hp, ProxyRegion.routed_of_ne_oam hoam, hbyte, hj⟩)⟩
      rw [hread]
    · rw [hothers q' hq]
  · exact State.byteIn_setProxy s y j fun q' hq' => hr ⟨q', hq'⟩

/-- A store to SRAM that is served lies within the chip (R800). -/
theorem saveStore_sram_fits {p : Params} (hk : p.saveKind = .sram) {count : Nat} {x y : Save} {o : Nat} {w : Width} {v : Word}
    (h : saveStore p count x o w v = .ok y) : o + w.bytes ≤ p.sramSize := by
  simp only [saveStore, hk, sramStore, sramCheck] at h
  split at h
  · assumption
  · cases h

theorem busStore_byteIn_save {w : Width} {a v : Word} {s t : State} {o : Nat} {r : Region} {j : Nat}
    (ha : classify s.params a = some (.save, o)) (h : busStore w a v s = .ok t)
    (hno : ¬ Overlaps s.params w .save o r j) : t.byteIn r j = s.byteIn r j := by
  rw [busStore_save ha] at h
  obtain ⟨y, hy, h⟩ := bind_eq_ok.mp h
  cases h
  cases r with
  | save =>
    have hk : s.params.saveKind = .sram := by
      by_contra hk
      exact hno ⟨rfl, nofun, nofun, .inr (.inl ⟨rfl, hk⟩)⟩
    have hout : ¬ (o ≤ j ∧ j < o + w.bytes) := fun hin => hno ⟨rfl, nofun, nofun, .inl hin⟩
    have hy := stopAt_eq_ok.mp hy
    rw [saveStore_sram hk (saveStore_sram_fits hk hy)] at hy
    cases hy
    simp only [State.byteIn, saveByte, hk, Save.written, SaveBuffer.read_writeCells, if_neg hout]
  | ram | rom | io | palette | vram | oam => rfl

theorem busStore_byteIn_ram {w : Width} {a v : Word} {s t : State} {o : Nat} {r : Region} {j : Nat}
    (ha : classify s.params a = some (.ram, o)) (h : busStore w a v s = .ok t)
    (hno : ¬ Overlaps s.params w .ram o r j) : t.byteIn r j = s.byteIn r j := by
  rw [busStore_ram ha] at h
  cases h
  cases r with
  | ram | rom =>
    have hout : ¬ (o ≤ j ∧ j < o + w.bytes) := fun hin => hno ⟨rfl, nofun, nofun, .inl hin⟩
    exact Memory.read_writeN_outside _ _ _ _ _ (by omega)
  | io | palette | vram | oam | save => rfl

/-- A store leaves every byte it does not touch (R202, R205, R851). -/
theorem busStore_byteAt {w : Width} {a v b : Word} {s t : State} (h : busStore w a v s = .ok t)
    (hb : ¬ Touches s.params w a b) : t.byteAt b = s.byteAt b := by
  have hparams : t.params = s.params := (busStore_rel h).1.params
  cases hplace : classify s.params b with
  | none => rw [State.byteAt_of_unmapped hplace, State.byteAt_of_unmapped (hparams ▸ hplace)]
  | some place =>
    obtain ⟨r, j⟩ := place
    rw [State.byteAt_of_classify hplace, State.byteAt_of_classify (hparams ▸ hplace)]
    cases ha : classify s.params a with
    | none => simp [busStore, ha] at h
    | some target =>
      obtain ⟨r', o⟩ := target
      rw [touches_iff ha hplace] at hb
      cases r' with
      | ram => exact busStore_byteIn_ram ha h hb
      | rom | io =>
        simp only [busStore, ha] at h
        cases h
        cases r <;> rfl
      | palette => exact busStore_byteIn_proxy (q := .palette) ha h hb
      | vram => exact busStore_byteIn_proxy (q := .vram) ha h hb
      | oam => exact busStore_byteIn_proxy (q := .oam) ha h hb
      | save => exact busStore_byteIn_save ha h hb

/-! ### A load changes no byte -/

theorem eepromLoad16_keeps (enable : Bool) (x : Save) :
    (eepromLoad16 enable x).2 = { x with eeprom := (eepromLoad16 enable x).2.eeprom } := by
  simp only [eepromLoad16]
  split
  · rfl
  · split <;> rfl

/-- A load of the savedata unit may move the EEPROM's protocol on, nothing else (R222, R836). -/
theorem saveLoad_keeps {p : Params} {enable : Bool} {x y : Save} {o : Nat} {w : Width} {v : Word}
    (h : saveLoad p enable x o w = .ok (v, y)) : y = { x with eeprom := y.eeprom } := by
  simp only [saveLoad, pure_eq_ok] at h
  split at h
  · obtain ⟨u, -, h⟩ := bind_eq_ok.mp h
    cases h
    rfl
  · split at h <;> cases h
    rfl
  · split at h <;> cases h
    rfl
  · split at h
    · obtain rfl : (eepromLoad16 enable x).2 = y := congrArg Prod.snd (Except.ok.inj h)
      exact eepromLoad16_keeps enable x
    · cases h

theorem busLoad_keeps {w : Width} {a v : Word} {s t : State} (h : busLoad w a s = .ok (v, t)) :
    t = { s with draws := t.draws, save := { s.save with eeprom := t.save.eeprom } } := by
  cases ha : classify s.params a with
  | none => simp [busLoad, ha] at h
  | some place =>
    obtain ⟨r, o⟩ := place
    cases r with
    | save =>
      rw [busLoad_save ha] at h
      obtain ⟨⟨u, y⟩, hy, h⟩ := bind_eq_ok.mp h
      cases h
      exact congrArg (fun x => { s with save := x }) (saveLoad_keeps (stopAt_eq_ok.mp hy))
    | io =>
      simp only [busLoad, ha] at h
      cases h
      rfl
    | ram | rom | palette | vram | oam =>
      simp only [busLoad, ha] at h
      obtain ⟨u, -, h⟩ := bind_eq_ok.mp h
      cases h
      rfl

/-! ### The relation -/

/-- Memory and the units hold what they held, and no word is raced that was not. -/
structure SameData (s t : State) : Prop where
  params : t.params = s.params
  mem : t.mem = s.mem
  proxy : t.proxy = s.proxy
  buffer : t.save.buffer = s.save.buffer
  flash : t.save.flash = s.save.flash
  ioLog : t.ioLog = s.ioLog
  stale : ∀ e ∈ t.stale, e ∈ s.stale

theorem SameData.refl (s : State) : SameData s s := ⟨rfl, rfl, rfl, rfl, rfl, rfl, fun _ => id⟩

theorem SameData.trans {s t u : State} (h : SameData s t) (h' : SameData t u) : SameData s u :=
  ⟨h'.params.trans h.params, h'.mem.trans h.mem, h'.proxy.trans h.proxy, h'.buffer.trans h.buffer, h'.flash.trans h.flash,
    h'.ioLog.trans h.ioLog, fun e he => h.stale e (h'.stale e he)⟩

/-- An update of the CPU unit's own fields, the raced words kept. -/
theorem SameData.cpu (s : State) (regs : RegFile) (pc : Word) (cpsr : Cpsr) (spsr : Spsrs) (after : Bool) (draws : Nat)
    (calls : List SwiCall) :
    SameData s { s with
      regs := regs, pc := pc, cpsr := cpsr, spsr := spsr, afterUserLdm := after, draws := draws, swiCalls := calls } :=
  ⟨rfl, rfl, rfl, rfl, rfl, rfl, fun _ => id⟩

/-- The same, the pipeline refilled (R971). -/
theorem SameData.refill (s : State) (regs : RegFile) (pc : Word) (cpsr : Cpsr) (spsr : Spsrs) :
    SameData s { s with regs := regs, pc := pc, cpsr := cpsr, spsr := spsr, stale := [] } :=
  ⟨rfl, rfl, rfl, rfl, rfl, rfl, nofun⟩

theorem SameData.byteAt {s t : State} (h : SameData s t) (b : Word) : t.byteAt b = s.byteAt b := by
  obtain ⟨hparams, hmem, hproxy, hbuffer, hflash, -, -⟩ := h
  simp only [State.byteAt, saveByte, flashLoad8, flashIndex, hparams, hmem, hproxy, hbuffer, hflash]

/-- `t` is `s` after stores that `P` admits: a byte none of them touches reads as before; where it admits none, memory and the
units hold what they held; a race recorded is with the instruction at A + W or A + 2W (R202, R250). -/
structure Stored (P : Width → Word → Prop) (s t : State) : Prop where
  bytes : ∀ b, (∀ w a, P w a → ¬ Touches s.params w a b) → t.byteAt b = s.byteAt b
  idle : (∀ w a, ¬ P w a) → SameData s t
  races : ∀ e ∈ t.stale, e ∈ s.stale ∨ e.addr = s.pc + instrStep s ∨ e.addr = s.pc + instrStep s + instrStep s

theorem SameData.stored {P : Width → Word → Prop} {s t : State} (h : SameData s t) : Stored P s t :=
  ⟨fun b _ => h.byteAt b, fun _ => h, fun e he => .inl (h.stale e he)⟩

/-- An access after an access: both are of the instruction at the same pc. -/
theorem Stored.trans {P : Width → Word → Prop} {s t u : State} (h : Stored P s t) (hm : MemRel s t) (h' : Stored P t u) :
    Stored P s u := by
  have hstep : instrStep t = instrStep s := by simp only [instrStep, hm.cpsr]
  obtain ⟨hbytes, hidle, hraces⟩ := h'
  rw [hm.params] at hbytes
  rw [hm.pc, hstep] at hraces
  exact ⟨fun b hb => (hbytes b hb).trans (h.bytes b hb), fun hP => (h.idle hP).trans (hidle hP),
    fun e he => (hraces e he).elim (h.races e) .inr⟩

/-- Then an update of the CPU unit's own fields. -/
theorem Stored.andThen {P : Width → Word → Prop} {s t u : State} (h : Stored P s t) (h' : SameData t u) : Stored P s u :=
  ⟨fun b hb => (h'.byteAt b).trans (h.bytes b hb), fun hP => (h.idle hP).trans h', fun e he => h.races e (h'.stale e he)⟩

theorem Stored.begun {P : Width → Word → Prop} {s t : State} (h : Stored P s.begun t) : Stored P s t :=
  ⟨h.bytes, fun hP => (SameData.cpu s _ _ _ _ _ _ _).trans (h.idle hP), h.races⟩

/-! ### The accesses -/

theorem busLoad_sameData {w : Width} {a v : Word} {s t : State} (h : busLoad w a s = .ok (v, t)) : SameData s t := by
  rw [busLoad_keeps h]
  exact ⟨rfl, rfl, rfl, rfl, rfl, rfl, fun _ => id⟩

/-- A load of an instruction is one load of the interface, its value extended or rotated (R211, R213, R216). -/
theorem loadValue_busLoad {k : Transfer} {a v : Word} {s t : State} (h : loadValue k a s = .ok (v, t)) :
    ∃ w b u, busLoad w b s = .ok (u, t) := by
  have hbind : ∀ {w : Width} {b : Word} {f : Word → Word},
      (busLoad w b s >>= fun r => .ok (f r.1, r.2)) = .ok (v, t) → ∃ w b u, busLoad w b s = .ok (u, t) := by
    intro w b f h
    obtain ⟨⟨u, s1⟩, h1, h⟩ := bind_eq_ok.mp h
    cases h
    exact ⟨w, b, u, h1⟩
  cases k with
  | ldrb => exact ⟨.byte, a, v, h⟩
  | ldrsb => exact hbind (f := fun r => (r.setWidth 8).signExtend 32) h
  | ldrh =>
    simp only [loadValue] at h
    split at h
    · obtain ⟨u, -, h⟩ := bind_eq_ok.mp h
      exact hbind (f := fun r => r.rotateRight 8) h
    · exact ⟨.half, a, v, h⟩
  | ldrsh =>
    simp only [loadValue] at h
    split at h
    · obtain ⟨u, -, h⟩ := bind_eq_ok.mp h
      exact hbind (f := fun r => (r.setWidth 8).signExtend 32) h
    · exact hbind (f := fun r => (r.setWidth 16).signExtend 32) h
  | ldr | str | strb | strh => exact hbind (f := fun r => r.rotateRight (8 * (a.extractLsb' 0 2).toNat)) h

theorem loadValue_sameData {k : Transfer} {a v : Word} {s t : State} (h : loadValue k a s = .ok (v, t)) : SameData s t := by
  obtain ⟨w, b, u, hload⟩ := loadValue_busLoad h
  exact busLoad_sameData hload

theorem loadWords_sameData {n : Nat} {start : Word} {vs : List Word} {s t : State} (h : loadWords start n s = .ok (vs, t)) :
    SameData s t := by
  induction n generalizing start s vs with
  | zero =>
    cases h
    exact SameData.refl _
  | succ n ih =>
    obtain ⟨⟨v, s1⟩, h1, h⟩ := bind_eq_ok.mp h
    obtain ⟨⟨vs', s2⟩, h2, h⟩ := bind_eq_ok.mp h
    cases h
    exact (busLoad_sameData h1).trans (ih h2)

/-- A store of the CPU unit that `P` admits. -/
theorem cpuStore_stored {P : Width → Word → Prop} {w : Width} {a v : Word} {s t : State} (hP : P w a)
    (h : cpuStore w a v s = .ok t) : Stored P s t := by
  obtain ⟨u, hu, ht, hraces⟩ := cpuStore_eq h
  refine ⟨fun b hb => ?_, fun hnone => absurd hP (hnone w a), fun e he => (hraces e he).imp_right And.left⟩
  have hbyte : t.byteAt b = u.byteAt b := by
    rw [ht]
    rfl
  exact hbyte.trans (busStore_byteAt hu (hb w a hP))

/-- A store of an instruction is served as one of the CPU unit at the aligned address (R212, R214, R216). -/
theorem storeValue_ok {k : Transfer} {a v : Word} {s t : State} (hk : k.isLoad = false) (h : storeValue k a v s = .ok t) :
    cpuStore k.width (k.storeAddress a) v s = .ok t := by
  cases k with
  | str | strb => exact h
  | strh =>
    obtain ⟨u, -, h⟩ := bind_eq_ok.mp h
    exact h
  | ldr | ldrb | ldrh | ldrsb | ldrsh => cases hk

theorem storeWords_stored {P : Width → Word → Prop} {vs : List Word} {start : Word} {s t : State}
    (hP : ∀ k < vs.length, P .word (alignWord (start + BitVec.ofNat 32 (4 * k)))) (h : storeWords start vs s = .ok t) :
    Stored P s t := by
  induction vs generalizing start s with
  | nil =>
    cases h
    exact (SameData.refl _).stored
  | cons v vs ih =>
    obtain ⟨s1, h1, h⟩ := bind_eq_ok.mp h
    have hfirst : P .word (alignWord start) := by simpa using hP 0 (Nat.succ_pos _)
    refine (cpuStore_stored hfirst h1).trans (cpuStore_rel h1) (ih (fun k hk => ?_) h)
    rw [blockAddress_succ]
    exact hP (k + 1) (Nat.succ_lt_succ hk)

/-- The accesses of a service, where every store is admitted (R915). -/
theorem swiAccesses_stored {P : Width → Word → Prop} (hP : ∀ w a, P w a) {l : List SwiAccess} {s t : State}
    (h : swiAccesses l s = .ok t) : Stored P s t := by
  induction l generalizing s with
  | nil =>
    cases h
    exact (SameData.refl _).stored
  | cons e rest ih =>
    cases e with
    | load w a =>
      obtain ⟨⟨v, s1⟩, h1, h⟩ := bind_eq_ok.mp h
      exact (busLoad_sameData h1).stored.trans (busLoad_rel h1) (ih h)
    | store w a v =>
      obtain ⟨s1, h1, h⟩ := bind_eq_ok.mp h
      exact (cpuStore_stored (hP w a) h1).trans (cpuStore_rel h1) (ih h)

end Sys2Proof.Machine
end

section
/-! PROOFS. What each instruction stores (O14, O52): shape by shape, its meaning makes the stores `storesTo` lists. -/

namespace Sys2Proof.Machine

/-! ### The frame of an instruction -/

theorem runArm_stored {P : Width → Word → Prop} {c : Cond} {regs : List RegNum} {checks : State → Except Fault Unit}
    {body : State → Except Fault State} {s t : State} (hb : body s.begun = .ok t → Stored P s.begun t)
    (h : runArm c regs checks body s = .next t) : Stored P s t := by
  rcases runArm_next h with ⟨-, rfl⟩ | ⟨-, -, h⟩
  · exact (SameData.cpu s _ _ _ _ _ _ _).stored
  · exact (hb h).begun

theorem runThumb_stored {P : Width → Word → Prop} {body : State → Except Fault State} {s t : State}
    (hb : body s.begun = .ok t → Stored P s.begun t) (h : runThumb body s = .next t) : Stored P s t :=
  (hb (runThumb_next.mp h)).begun

/-- An ARM instruction without an access. -/
theorem runArm_sameData {c : Cond} {regs : List RegNum} {checks : State → Except Fault Unit}
    {body : State → Except Fault State} {s t : State} (hb : body s.begun = .ok t → SameData s.begun t)
    (h : runArm c regs checks body s = .next t) : SameData s t := by
  rcases runArm_next h with ⟨-, rfl⟩ | ⟨-, -, h⟩
  · exact SameData.cpu s _ _ _ _ _ _ _
  · exact (SameData.cpu s _ _ _ _ _ _ _).trans (hb h)

/-- A Thumb instruction without an access. -/
theorem runThumb_sameData {body : State → Except Fault State} {s t : State}
    (hb : body s.begun = .ok t → SameData s.begun t) (h : runThumb body s = .next t) : SameData s t :=
  (SameData.cpu s _ _ _ _ _ _ _).trans (hb (runThumb_next.mp h))

/-- A Thumb instruction whose body never faults. -/
theorem runThumb_total_sameData {f : State → State} {s t : State} (hf : SameData s.begun (f s.begun))
    (h : runThumb (fun s => .ok (f s)) s = .next t) : SameData s t := by
  cases runThumb_next.mp h
  exact (SameData.cpu s _ _ _ _ _ _ _).trans hf

/-! ### Operations on the CPU unit alone -/

theorem branchArm_sameData {v : Word} {s t : State} (h : branchArm v s = .ok t) : SameData s t := by
  rw [branchArm_eq h]
  exact SameData.refill s _ _ _ _

theorem branchThumb_sameData (v : Word) (s : State) : SameData s (branchThumb v s) := SameData.refill s _ _ _ _

theorem exchange_sameData {v : Word} {s t : State} (h : exchange v s = .ok t) : SameData s t := by
  rw [branchByT_eq h]
  exact SameData.refill s _ _ _ _

theorem takeException_sameData (e : Exc) (lr : Word) (s : State) : SameData s (takeException e lr s) :=
  SameData.refill s _ _ _ _

theorem undefined_sameData {bits w : Word} {s t : State} (h : undefined bits w s = .ok t) : SameData s t := by
  rw [undefined_eq h]
  exact takeException_sameData _ _ _

theorem returnFromException_sameData {saved target : Word} {s t : State} (h : returnFromException saved target s = .ok t) :
    SameData s t := by
  obtain ⟨p, -, rfl⟩ := returnFromException_eq h
  exact SameData.refill s _ _ _ _

theorem dpReturn_sameData {out : AluOut} {s t : State} (h : dpReturn out s = .ok t) : SameData s t := by
  simp only [dpReturn] at h
  split at h
  · exact returnFromException_sameData h
  · obtain ⟨u, -, h⟩ := bind_eq_ok.mp h
    exact (SameData.cpu s _ _ _ _ _ _ _).trans (branchArm_sameData h)

theorem dpWrite_sameData {op : DpOp} {f : Bool} {rd : RegNum} {out : AluOut} {s t : State}
    (h : dpWrite op f rd out s = .ok t) : SameData s t := by
  have hflagged : SameData s (if f then { s with cpsr := s.cpsr.setAlu out } else s) := by
    split
    · exact SameData.cpu s _ _ _ _ _ _ _
    · exact SameData.refl s
  simp only [dpWrite] at h
  split at h
  · cases h
    exact hflagged.trans (SameData.cpu _ _ _ _ _ _ _ _)
  · split at h
    · split at h
      · exact dpReturn_sameData h
      · exact branchArm_sameData h
    · cases h
      exact hflagged.trans (SameData.cpu _ _ _ _ _ _ _ _)

theorem multiply_sameData {c : Cond} {f : Bool} {rd : RegNum} {acc : Option RegNum} {rs rm : RegNum} {s t : State}
    (h : multiply c f rd acc rs rm s = .next t) : SameData s t := by
  refine runArm_sameData (fun h => ?_) h
  cases h
  cases f <;> exact SameData.cpu _ _ _ _ _ _ _ _

theorem longMultiply_sameData {sg acc : Bool} {c : Cond} {f : Bool} {rdHi rdLo rs rm : RegNum} {s t : State}
    (h : longMultiply sg acc c f rdHi rdLo rs rm s = .next t) : SameData s t := by
  refine runArm_sameData (fun h => ?_) h
  cases h
  cases f <;> exact SameData.cpu _ _ _ _ _ _ _ _

theorem moveFromStatus_sameData {c : Cond} {spsr : Bool} {rd : RegNum} {s t : State}
    (h : moveFromStatus c spsr rd s = .next t) : SameData s t := by
  refine runArm_sameData (fun h => ?_) h
  obtain ⟨v, -, h⟩ := bind_eq_ok.mp h
  cases h
  exact SameData.cpu _ _ _ _ _ _ _ _

theorem moveToStatus_sameData {c : Cond} {spsr : Bool} {mask : BitVec 4} {o : Operand2} {s t : State}
    (h : moveToStatus c spsr mask o s = .next t) : SameData s t := by
  refine runArm_sameData (fun h => ?_) h
  cases spsr with
  | false =>
    obtain ⟨s', h1, h⟩ := bind_eq_ok.mp h
    obtain ⟨p, rfl, -⟩ := writeCpsr_eq h1
    cases h
    exact SameData.cpu _ _ _ _ _ _ _ _
  | true =>
    obtain ⟨s', h1, h⟩ := bind_eq_ok.mp h
    obtain ⟨x, rfl⟩ := writeSpsr_eq h1
    cases h
    exact SameData.cpu _ _ _ _ _ _ _ _

theorem branch_sameData {c : Cond} {link : Bool} {off : BitVec 24} {s t : State} (h : branch c link off s = .next t) :
    SameData s t := by
  refine runArm_sameData (fun h => ?_) h
  cases h
  cases link <;> exact SameData.refill _ _ _ _ _

theorem thumbHi_sameData {m d : RegNum} {f : State → Word} {s t : State} (h : thumbHi m d f s = .next t) :
    SameData s t := by
  refine runThumb_sameData (fun h => ?_) h
  obtain ⟨u, -, h⟩ := bind_eq_ok.mp h
  cases h
  simp only [thumbHiWrite]
  split
  · exact branchThumb_sameData _ _
  · exact SameData.cpu _ _ _ _ _ _ _ _

theorem thumbHiCompare_sameData {m d : RegNum} {s t : State} (h : thumbHiCompare m d s = .next t) : SameData s t := by
  refine runThumb_sameData (fun h => ?_) h
  obtain ⟨u, -, h⟩ := bind_eq_ok.mp h
  obtain ⟨u, -, h⟩ := bind_eq_ok.mp h
  cases h
  exact SameData.cpu _ _ _ _ _ _ _ _

theorem thumbMultiply_sameData {rs rd : LowReg} {s t : State} (h : thumbMultiply rs rd s = .next t) : SameData s t := by
  refine runThumb_sameData (fun h => ?_) h
  obtain ⟨u, -, h⟩ := bind_eq_ok.mp h
  cases h
  exact SameData.cpu _ _ _ _ _ _ _ _

theorem thumbBranchIf_sameData {c : Cond} {off : BitVec 8} {s t : State} (h : thumbBranchIf c off s = .next t) :
    SameData s t := by
  refine runThumb_total_sameData ?_ h
  split
  · exact SameData.refill _ _ _ _ _
  · exact SameData.cpu _ _ _ _ _ _ _ _

/-! ### What follows an access -/

theorem writeBackBase_sameData (x : Indexing) (rn : RegNum) (v : Word) (s : State) :
    SameData s (writeBackBase x rn v s) := by
  simp only [writeBackBase]
  split
  · exact SameData.cpu _ _ _ _ _ _ _ _
  · exact SameData.refl s

theorem finishLoad_sameData {rd : RegNum} {v : Word} {s t : State} (h : finishLoad rd v s = .ok t) : SameData s t := by
  simp only [finishLoad] at h
  split at h
  · exact branchArm_sameData h
  · cases h
    exact SameData.cpu _ _ _ _ _ _ _ _

theorem writeBackBlock_sameData (w : Bool) (rn : RegNum) (v : Word) (s : State) :
    SameData s (writeBackBlock w rn v s) := by
  simp only [writeBackBlock]
  split
  · exact SameData.cpu _ _ _ _ _ _ _ _
  · exact SameData.refl s

theorem writeRegs_sameData (m : Mode) (l : List (RegNum × Word)) (s : State) : SameData s (writeRegs m l s) := by
  induction l generalizing s with
  | nil => exact SameData.refl s
  | cons e rest ih =>
    simp only [writeRegs]
    split
    · exact ih s
    · exact (SameData.cpu s _ _ _ _ _ _ _).trans (ih _)

theorem loadPc_sameData {ub : Bool} {v : Word} {s t : State} (h : loadPc ub v s = .ok t) : SameData s t := by
  simp only [loadPc] at h
  split at h
  · split at h
    · exact returnFromException_sameData h
    · obtain ⟨u, -, h⟩ := bind_eq_ok.mp h
      exact branchArm_sameData h
  · exact branchArm_sameData h

theorem setIfSome_sameData (s : State) (i : RegNum) (v : Option Word) : SameData s (setIfSome s i v) := by
  cases v with
  | none => exact SameData.refl s
  | some v => exact SameData.cpu s _ _ _ _ _ _ _

/-! ### Instructions that load -/

theorem blockLoad_sameData {bm : BlockMode} {c : Cond} {ub w : Bool} {rn : RegNum} {list : BitVec 16} {s t : State}
    (h : blockLoad bm c ub w rn list s = .next t) : SameData s t := by
  refine runArm_sameData (fun h => ?_) h
  split at h
  · obtain ⟨⟨v, s1⟩, h1, h⟩ := bind_eq_ok.mp h
    exact (busLoad_sameData h1).trans ((writeBackBlock_sameData _ _ _ _).trans (branchArm_sameData h))
  · simp only [loadMultiple] at h
    obtain ⟨⟨vs, s1⟩, h1, h⟩ := bind_eq_ok.mp h
    have hwritten := (loadWords_sameData h1).trans
      ((writeBackBlock_sameData w rn (bm.writeBack (s.begun.x 8 rn) (blockCount list)) s1).trans
        (writeRegs_sameData (if userBank true ub list then .usr else s.begun.cpsr.m) ((regList list).zip vs) _))
    split at h
    · exact hwritten.trans (loadPc_sameData h)
    · cases h
      exact hwritten.trans (SameData.cpu _ _ _ _ _ _ _ _)

theorem thumbLoad_sameData {k : Transfer} {rd : LowReg} {f : State → Word} {s t : State} (h : thumbLoad k rd f s = .next t) :
    SameData s t := by
  refine runThumb_sameData (fun h => ?_) h
  obtain ⟨⟨v, s1⟩, h1, h⟩ := bind_eq_ok.mp h
  cases h
  exact (loadValue_sameData h1).trans (SameData.cpu _ _ _ _ _ _ _ _)

theorem pop_sameData {r : Bool} {list : BitVec 8} {s t : State} (h : pop r list s = .next t) : SameData s t := by
  refine runThumb_sameData (fun h => ?_) h
  obtain ⟨u, -, h⟩ := bind_eq_ok.mp h
  obtain ⟨⟨vs, s1⟩, h1, h⟩ := bind_eq_ok.mp h
  cases h
  have hwritten := (loadWords_sameData h1).trans
    (writeRegs_sameData s.begun.cpsr.m ((stackRegs r 15#4 list).zip vs) s1)
  cases r with
  | false => exact hwritten.trans (SameData.cpu _ _ _ _ _ _ _ _)
  | true => exact hwritten.trans (SameData.refill _ _ _ _ _)

theorem thumbLoadMultiple_sameData {rb : LowReg} {list : BitVec 8} {s t : State}
    (h : thumbLoadMultiple rb list s = .next t) : SameData s t := by
  refine runThumb_sameData (fun h => ?_) h
  obtain ⟨u, -, h⟩ := bind_eq_ok.mp h
  obtain ⟨⟨vs, s1⟩, h1, h⟩ := bind_eq_ok.mp h
  cases h
  exact (loadWords_sameData h1).trans ((SameData.cpu s1 _ _ _ _ _ _ _).trans ((writeRegs_sameData _ _ _).trans
    (SameData.cpu _ _ _ _ _ _ _ _)))

/-! ### Instructions that store -/

/-- The stores `storesTo` lists, and any where the instruction calls the external service (R915). -/
def Shape.admits (sh : Shape) (s : State) (w : Width) (a : Word) : Prop :=
  (w, a) ∈ sh.storesTo s ∨ sh.callsService s = true

theorem mem_blockAddresses {start : Word} {n k : Nat} (h : k < n) :
    (Width.word, alignWord (start + BitVec.ofNat 32 (4 * k))) ∈ (blockAddresses start n).map fun a => (Width.word, a) :=
  List.mem_map_of_mem (List.mem_map_of_mem (List.mem_range.mpr h))

theorem transferBody_stored {k : Transfer} {c : Cond} {x : Indexing} {rn rd : RegNum} {o : Offset} {s t : State}
    (h : transferBody k x rn rd o s = .ok t) : Stored ((Shape.transfer k c x rn rd o).admits s) s t := by
  simp only [transferBody] at h
  split at h
  · obtain ⟨⟨v, s1⟩, h1, h⟩ := bind_eq_ok.mp h
    exact ((loadValue_sameData h1).trans ((writeBackBase_sameData _ _ _ _).trans (finishLoad_sameData h))).stored
  next hk =>
    obtain ⟨s1, h1, h⟩ := bind_eq_ok.mp h
    cases h
    have hadmits : (Shape.transfer k c x rn rd o).admits s k.width (k.storeAddress (x.address (s.x 8 rn) (o.eval s))) := by
      simp [Shape.admits, Shape.storesTo, hk]
    exact (cpuStore_stored hadmits (storeValue_ok (eq_false_of_ne_true hk) h1)).andThen
      ((writeBackBase_sameData _ _ _ _).trans (SameData.cpu _ _ _ _ _ _ _ _))

theorem swap_stored {l k : Transfer} {c : Cond} {rn rd rm : RegNum} {s t : State} (hk : k.isLoad = false)
    (h : swap l k c rn rd rm s = .next t) : Stored ((Shape.swap l k c rn rd rm).admits s) s t := by
  refine runArm_stored (fun h => ?_) h
  obtain ⟨⟨v, s1⟩, h1, h⟩ := bind_eq_ok.mp h
  obtain ⟨s2, h2, h⟩ := bind_eq_ok.mp h
  cases h
  have hadmits : (Shape.swap l k c rn rd rm).admits s k.width (k.storeAddress (s.x 8 rn)) := .inl (List.mem_singleton_self _)
  exact ((loadValue_sameData h1).stored.trans (loadValue_rel h1) (cpuStore_stored hadmits (storeValue_ok hk h2))).andThen
    (SameData.cpu _ _ _ _ _ _ _ _)

theorem length_storedValues (bm : BlockMode) (ub w : Bool) (rn : RegNum) (list : BitVec 16) (s : State) :
    (storedValues bm ub w rn list s).length = if list = 0#16 then 1 else (regList list).length := by
  simp only [storedValues]
  split <;> simp

theorem blockStore_stored {bm : BlockMode} {c : Cond} {ub w : Bool} {rn : RegNum} {list : BitVec 16} {s t : State}
    (h : blockStore bm c ub w rn list s = .next t) : Stored ((Shape.block false bm c ub w rn list).admits s) s t := by
  refine runArm_stored (fun h => ?_) h
  obtain ⟨s1, h1, h⟩ := bind_eq_ok.mp h
  cases h
  refine (storeWords_stored (fun k hk => .inl ?_) h1).andThen
    ((writeBackBlock_sameData _ _ _ _).trans (SameData.cpu _ _ _ _ _ _ _ _))
  rw [length_storedValues] at hk
  exact mem_blockAddresses hk

theorem thumbStore_stored {k : Transfer} {rd : LowReg} {o : TAddr} {s t : State} (hk : k.isLoad = false)
    (h : thumbStore k rd o.eval s = .next t) : Stored ((Shape.tTransfer k rd o).admits s) s t := by
  refine runThumb_stored (fun h => ?_) h
  obtain ⟨s1, h1, h⟩ := bind_eq_ok.mp h
  cases h
  have hadmits : (Shape.tTransfer k rd o).admits s k.width (k.storeAddress (o.eval s.begun)) := by
    rw [TAddr.eval_eq_value o s.begun]
    simp only [Shape.admits, Shape.storesTo, hk]
    exact .inl (List.mem_singleton_self _)
  exact (cpuStore_stored hadmits (storeValue_ok hk h1)).andThen (SameData.cpu _ _ _ _ _ _ _ _)

theorem length_stackRegs (r : Bool) (top : RegNum) (list : BitVec 8) : (stackRegs r top list).length = stackCount r list := by
  cases r <;> simp [stackRegs, stackCount]

theorem push_stored {r : Bool} {list : BitVec 8} {s t : State} (h : push r list s = .next t) :
    Stored ((Shape.tPush r list).admits s) s t := by
  refine runThumb_stored (fun h => ?_) h
  obtain ⟨u, -, h⟩ := bind_eq_ok.mp h
  obtain ⟨s1, h1, h⟩ := bind_eq_ok.mp h
  cases h
  refine (storeWords_stored (fun k hk => .inl ?_) h1).andThen (SameData.cpu _ _ _ _ _ _ _ _)
  rw [List.length_map, length_stackRegs] at hk
  rw [length_stackRegs]
  exact mem_blockAddresses hk

theorem thumbStoreMultiple_stored {rb : LowReg} {list : BitVec 8} {s t : State}
    (h : thumbStoreMultiple rb list s = .next t) : Stored ((Shape.tBlock false rb list).admits s) s t := by
  refine runThumb_stored (fun h => ?_) h
  obtain ⟨u, -, h⟩ := bind_eq_ok.mp h
  obtain ⟨u, -, h⟩ := bind_eq_ok.mp h
  obtain ⟨s1, h1, h⟩ := bind_eq_ok.mp h
  cases h
  refine (storeWords_stored (fun k hk => .inl ?_) h1).andThen (SameData.cpu _ _ _ _ _ _ _ _)
  rw [List.length_map] at hk
  rw [State.lo_eq]
  exact mem_blockAddresses hk

/-! ### The service -/

theorem runScript_stored {P : Width → Word → Prop} (hP : ∀ w a, P w a) {x : SwiScript} {s t : State}
    (h : runScript x s = .ok t) : Stored P s t := by
  obtain ⟨s1, h1, h⟩ := bind_eq_ok.mp h
  cases h
  exact (swiAccesses_stored hP h1).andThen ((setIfSome_sameData _ _ _).trans ((setIfSome_sameData _ _ _).trans
    ((setIfSome_sameData _ _ _).trans (setIfSome_sameData _ _ _))))

theorem swiService_stored {P : Width → Word → Prop} (hP : ∀ w a, P w a) {k : SwiCall} {s t : State}
    (h : swiService k s = .ok t) : Stored P s t := by
  have hscript := runScript_stored hP h
  exact ⟨hscript.bytes, fun hnone => absurd (hP .word 0) (hnone .word 0), hscript.races⟩

/-- SWI stores nothing where it traps; a service may store anywhere (R915). -/
theorem softwareInterrupt_stored {P : Width → Word → Prop} {k : SwiCall} {w : Word} {s t : State}
    (hP : s.params.swiMode = .external → ∀ w a, P w a) (h : softwareInterrupt k w s = .ok t) : Stored P s t := by
  rcases softwareInterrupt_cases h with ⟨-, rfl⟩ | ⟨hext, s', hs, rfl⟩
  · exact (takeException_sameData _ _ _).stored
  · exact (swiService_stored (hP hext) hs).andThen (SameData.cpu _ _ _ _ _ _ _ _)

/-! ### Every instruction -/

/-- A swap's second access is a store: of the shapes, only the swap leaves that open. -/
def Shape.swapStores : Shape → Bool
  | .swap _ k _ _ _ _ => !k.isLoad
  | _ => true

theorem shapeOf_swapStores (i : Instr) : (shapeOf i).swapStores = true := by
  cases i <;> rfl

/-- An instruction makes no store but those `storesTo` lists, unless it calls the service. -/
theorem runShape_stored {sh : Shape} {s t : State} (hsh : sh.swapStores = true) (h : runShape sh s = .next t) :
    Stored (sh.admits s) s t := by
  cases sh with
  | dataProc => exact (runArm_sameData dpWrite_sameData h).stored
  | multiply => exact (multiply_sameData h).stored
  | longMultiply => exact (longMultiply_sameData h).stored
  | mrs => exact (moveFromStatus_sameData h).stored
  | msr => exact (moveToStatus_sameData h).stored
  | bx => exact (runArm_sameData exchange_sameData h).stored
  | branch => exact (branch_sameData h).stored
  | swap => exact swap_stored (by simpa [Shape.swapStores] using hsh) h
  | transfer k c =>
    simp only [runShape] at h
    split at h <;> exact runArm_stored (transferBody_stored (c := c)) h
  | block load =>
    cases load with
    | false => exact blockStore_stored h
    | true => exact (blockLoad_sameData h).stored
  | undefArm => exact (runArm_sameData undefined_sameData h).stored
  | swi => exact runArm_stored (softwareInterrupt_stored fun hext _ _ => .inr (beq_iff_eq.mpr hext)) h
  | tShift => exact (runThumb_total_sameData (SameData.cpu _ _ _ _ _ _ _ _) h).stored
  | tAlu =>
    simp only [runShape] at h
    split at h <;> exact (runThumb_total_sameData (SameData.cpu _ _ _ _ _ _ _ _) h).stored
  | tMul => exact (thumbMultiply_sameData h).stored
  | tHi =>
    simp only [runShape] at h
    split at h
    · exact (thumbHi_sameData h).stored
    · exact (thumbHiCompare_sameData h).stored
    · exact (thumbHi_sameData h).stored
  | tBx => exact (runThumb_sameData exchange_sameData h).stored
  | tAddress =>
    simp only [runShape] at h
    split at h <;> exact (runThumb_total_sameData (SameData.cpu _ _ _ _ _ _ _ _) h).stored
  | tAdjustSp =>
    simp only [runShape] at h
    exact (runThumb_total_sameData (SameData.cpu _ _ _ _ _ _ _ _) h).stored
  | tTransfer =>
    simp only [runShape] at h
    split at h
    next => exact (thumbLoad_sameData h).stored
    next hk => exact thumbStore_stored (eq_false_of_ne_true hk) h
  | tPush => exact push_stored h
  | tPop => exact (pop_sameData h).stored
  | tBlock load =>
    cases load with
    | false => exact thumbStoreMultiple_stored h
    | true => exact (thumbLoadMultiple_sameData h).stored
  | tBranchIf => exact (thumbBranchIf_sameData h).stored
  | tUnd => exact (runThumb_sameData undefined_sameData h).stored
  | tSwi => exact runThumb_stored (softwareInterrupt_stored fun hext _ _ => .inr (beq_iff_eq.mpr hext)) h
  | tB =>
    simp only [runShape] at h
    exact (runThumb_total_sameData (SameData.refill _ _ _ _ _) h).stored
  | tBl =>
    simp only [runShape] at h
    split at h
    · exact (runThumb_total_sameData (SameData.refill _ _ _ _ _) h).stored
    · exact (runThumb_total_sameData (SameData.cpu _ _ _ _ _ _ _ _) h).stored

theorem exec_stored {i : Instr} {s t : State} (h : exec i s = .next t) : Stored ((shapeOf i).admits s) s t := by
  rw [exec_eq_runShape] at h
  exact runShape_stored (shapeOf_swapStores i) h

/-- An instruction that stores nothing and calls no service leaves memory, the units and the raced words. -/
theorem exec_sameData {i : Instr} {s t : State} (h : exec i s = .next t) (hstores : (shapeOf i).storesTo s = [])
    (hservice : (shapeOf i).callsService s = false) : SameData s t :=
  (exec_stored h).idle fun w a hP => by simp [Shape.admits, hstores, hservice] at hP

/-- Settles O52: what an instruction stores is what `storesTo` lists (`exec_stored`). -/
theorem memoryFrame : Obligations.MemoryFrame := by
  intro i s t h hservice
  refine ⟨fun b hb => (exec_stored h).bytes b fun w a hP => ?_, fun hstores => ?_⟩
  · rcases hP with hmem | hcalls
    · exact hb (w, a) hmem
    · rw [hservice] at hcalls
      cases hcalls
  · have hsame := exec_sameData h hstores hservice
    exact ⟨hsame.mem, hsame.proxy, hsame.ioLog, hsame.buffer⟩

/-! ### The race of a store with the pipeline -/

/-- A store of the CPU unit records the instruction it changes (R250, R971). -/
theorem cpuStore_records {w : Width} {a v x : Word} {s t u : State} (hu : busStore w a v s = .ok u)
    (h : cpuStore w a v s = .ok t) (hx : x = s.pc + instrStep s ∨ x = s.pc + instrStep s + instrStep s)
    (hreaches : storeReaches s.params w a (fetchWidth s) x = true)
    (hchanged : peek (fetchWidth s) x s ≠ peek (fetchWidth s) x u) : ⟨x, peek (fetchWidth s) x s⟩ ∈ t.stale := by
  have hentry : raceEntry w a x s u = [⟨x, peek (fetchWidth s) x s⟩] := by
    simp [raceEntry, hreaches, hchanged]
  simp only [cpuStore, hu, ok_bind, pure_eq_ok] at h
  cases h
  rcases hx with rfl | rfl <;> simp [hentry]

theorem racedWords_eq_nil {l : List Stale} {a : Word} (h : ∀ e ∈ l, e.addr ≠ a) : racedWords l a = [] := by
  simpa [racedWords] using h

theorem mem_racedWords {l : List Stale} {a : Word} {old : Option Word} (h : old ∈ racedWords l a) :
    ∃ e ∈ l, e.addr = a ∧ e.old = old := by
  simpa [racedWords, and_assoc] using h

theorem mem_dropRaced {l : List Stale} {a : Word} {e : Stale} (h : e ∈ dropRaced l a) : e ∈ l ∧ e.addr ≠ a := by
  simpa [dropRaced] using h

/-- A fetch is the load at the pc, the choice among the raced words, and these dropped (R203, R250). -/
theorem fetch_eq {s s' t : State} {k : Code} {now : Word} (hload : busLoad (fetchWidth s) s.pc s = .ok (now, s'))
    (h : fetch s = .ok (k, t)) : ∃ w s2, chooseRaced now (racedWords s.stale s.pc) s' = .ok (w, s2) ∧
      k = (if s.cpsr.t then .thumb (w.setWidth 16) else .arm w) ∧ t.stale = dropRaced s.stale s.pc := by
  simp only [fetch, hload, ok_bind, pure_eq_ok] at h
  obtain ⟨⟨w, s2⟩, hchoose, h⟩ := bind_eq_ok.mp h
  cases h
  have hstale : s2.stale = s.stale := by
    rw [(chooseRaced_eq hchoose).2, (busLoad_eq hload).1]
  exact ⟨w, s2, hchoose, rfl, congrArg (dropRaced · s.pc) hstale⟩

/-- Settles O14: the records of one store, of an instruction's stores (`exec_stored`), and what a fetch does with them. -/
theorem prefetchRace : Obligations.PrefetchRace := by
  refine ⟨fun w a v x s t u hu h => ?_, fun i s t h => ⟨fun hstores hservice => ?_, (exec_stored h).races⟩,
    fun s s' t k now hload h => ?_⟩
  · obtain ⟨u', hu', ht, hraces⟩ := cpuStore_eq h
    cases hu'.symm.trans hu
    exact ⟨ht, cpuStore_records hu h, fun e he => (hraces e he).imp_right fun ⟨haddr, hold, hreaches, _⟩ =>
      ⟨haddr, hold, hreaches⟩⟩
  · exact (exec_sameData h hstores hservice).stale
  · obtain ⟨w, s2, hchoose, rfl, hstale⟩ := fetch_eq hload h
    have hword := (chooseRaced_eq hchoose).1
    refine ⟨⟨w, rfl, hword.imp_right mem_racedWords⟩, fun hnone => ?_, fun e he => mem_dropRaced (hstale ▸ he)⟩
    rw [racedWords_eq_nil hnone] at hword
    rw [hword.resolve_right List.not_mem_nil]

end Sys2Proof.Machine
end

section
/-! PROOFS. Words and their fields: when the fields of a word determine it, what the decoder reads back from the word of each
layout of the encoding tables, and that a word is its layout's word of its fields (R302, R340). -/

namespace Sys2Proof

/-! ### A word is its fields -/

@[simp] theorem field_one {m : Nat} (w : BitVec m) (i : Nat) : field w i 1 = BitVec.ofBool (bitAt w i) := by
  ext j hj
  obtain rfl : j = 0 := by omega
  simp [field, bitAt]

/-- Two words with the same fields, the fields covering the width, are the same word. -/
theorem eq_of_fields {m : Nat} {v w : BitVec m} (l : List (Nat × Nat)) (hcover : ∀ i < m, ∃ p ∈ l, p.1 ≤ i ∧ i < p.1 + p.2)
    (h : ∀ p ∈ l, field v p.1 p.2 = field w p.1 p.2) : v = w := by
  refine BitVec.eq_of_getLsbD_eq fun i hi => ?_
  obtain ⟨p, hp, hlo, hhi⟩ := hcover i hi
  have hbit := congrArg (BitVec.getLsbD · (i - p.1)) (h p hp)
  have hin : i - p.1 < p.2 := by omega
  simpa [field, hin, Nat.add_sub_cancel' hlo] using hbit

theorem DpOp.ofBits_eq_iff {b : BitVec 4} {op : DpOp} : DpOp.ofBits b = op ↔ b = op.toBits := by
  constructor
  · rintro rfl
    exact (DpOp.toBits_ofBits b).symm
  · rintro rfl
    exact DpOp.ofBits_toBits op

theorem DpOp.isCompare_iff {op : DpOp} : op.isCompare = true ↔ op = .tst ∨ op = .teq ∨ op = .cmp ∨ op = .cmn := by
  cases op <;> decide

/-! ### The ARM layouts -/

@[simp] theorem dpImmWord_fields (op : BitVec 4) (c : Cond) (f : Bool) (rn rd : RegNum) (rot : BitVec 4) (imm : BitVec 8) :
    let v := dpImmWord op c f rn rd rot imm
    field v 28 4 = c.toBits ∧ field v 25 3 = 1#3 ∧ field v 21 4 = op ∧ bitAt v 20 = f ∧ field v 16 4 = rn ∧
      field v 12 4 = rd ∧ field v 8 4 = rot ∧ field v 0 8 = imm := by
  simp [dpImmWord, putBit, field_put_below, field_put_above]

theorem dpImmWord_of_fields {w : Word} (h : field w 25 3 = 1#3) :
    dpImmWord (field w 21 4) (Cond.ofBits (field w 28 4)) (bitAt w 20) (field w 16 4) (field w 12 4) (field w 8 4) (field w 0 8)
      = w :=
  eq_of_fields [(28, 4), (25, 3), (21, 4), (20, 1), (16, 4), (12, 4), (8, 4), (0, 8)] (by decide)
    (by simp [h, Cond.toBits_ofBits])

@[simp] theorem dpShiftImmWord_fields (op : BitVec 4) (c : Cond) (f : Bool) (rn rd : RegNum) (amt : BitVec 5) (sh : ShiftKind)
    (rm : RegNum) :
    let v := dpShiftImmWord op c f rn rd amt sh rm
    field v 28 4 = c.toBits ∧ field v 25 3 = 0#3 ∧ field v 21 4 = op ∧ bitAt v 20 = f ∧ field v 16 4 = rn ∧
      field v 12 4 = rd ∧ field v 7 5 = amt ∧ field v 5 2 = sh.toBits ∧ bitAt v 4 = false ∧ field v 0 4 = rm := by
  simp [dpShiftImmWord, putBit, field_put_below, field_put_above]

theorem dpShiftImmWord_of_fields {w : Word} (h : field w 25 3 = 0#3) (h4 : bitAt w 4 = false) :
    dpShiftImmWord (field w 21 4) (Cond.ofBits (field w 28 4)) (bitAt w 20) (field w 16 4) (field w 12 4) (field w 7 5)
      (ShiftKind.ofBits (field w 5 2)) (field w 0 4) = w :=
  eq_of_fields [(28, 4), (25, 3), (21, 4), (20, 1), (16, 4), (12, 4), (7, 5), (5, 2), (4, 1), (0, 4)] (by decide)
    (by simp [h, h4, Cond.toBits_ofBits, ShiftKind.toBits_ofBits])

@[simp] theorem dpShiftRegWord_fields (op : BitVec 4) (c : Cond) (f : Bool) (rn rd rs : RegNum) (sh : ShiftKind) (rm : RegNum) :
    let v := dpShiftRegWord op c f rn rd rs sh rm
    field v 28 4 = c.toBits ∧ field v 25 3 = 0#3 ∧ field v 21 4 = op ∧ bitAt v 20 = f ∧ field v 16 4 = rn ∧
      field v 12 4 = rd ∧ field v 8 4 = rs ∧ bitAt v 7 = false ∧ field v 5 2 = sh.toBits ∧ bitAt v 4 = true ∧
      field v 0 4 = rm := by
  simp [dpShiftRegWord, putBit, field_put_below, field_put_above]

theorem dpShiftRegWord_of_fields {w : Word} (h : field w 25 3 = 0#3) (h4 : bitAt w 4 = true) (h7 : bitAt w 7 = false) :
    dpShiftRegWord (field w 21 4) (Cond.ofBits (field w 28 4)) (bitAt w 20) (field w 16 4) (field w 12 4) (field w 8 4)
      (ShiftKind.ofBits (field w 5 2)) (field w 0 4) = w :=
  eq_of_fields [(28, 4), (25, 3), (21, 4), (20, 1), (16, 4), (12, 4), (8, 4), (7, 1), (5, 2), (4, 1), (0, 4)] (by decide)
    (by simp [h, h4, h7, Cond.toBits_ofBits, ShiftKind.toBits_ofBits])

@[simp] theorem mrsWord_fields (c : Cond) (spsr : Bool) (rd : RegNum) :
    let v := mrsWord c spsr rd
    field v 28 4 = c.toBits ∧ field v 25 3 = 0#3 ∧ field v 21 4 = (if spsr then 10#4 else 8#4) ∧ bitAt v 20 = false ∧
      field v 16 4 = 15#4 ∧ field v 12 4 = rd ∧ bitAt v 4 = false ∧ field v 0 12 = 0#12 := by
  simp [mrsWord, field_put_below, field_put_above]

theorem mrsWord_of_fields {w : Word} {spsr : Bool} (h : field w 25 3 = 0#3)
    (hop : field w 21 4 = if spsr then 10#4 else 8#4) (h20 : bitAt w 20 = false) (h16 : field w 16 4 = 15#4)
    (h0 : field w 0 12 = 0#12) : mrsWord (Cond.ofBits (field w 28 4)) spsr (field w 12 4) = w :=
  eq_of_fields [(28, 4), (25, 3), (21, 4), (20, 1), (16, 4), (12, 4), (0, 12)] (by decide)
    (by simp [h, hop, h20, h16, h0, Cond.toBits_ofBits])

@[simp] theorem msrRegWord_fields (c : Cond) (spsr : Bool) (mask : BitVec 4) (rm : RegNum) :
    let v := msrRegWord c spsr mask rm
    field v 28 4 = c.toBits ∧ field v 25 3 = 0#3 ∧ field v 21 4 = (if spsr then 11#4 else 9#4) ∧ bitAt v 20 = false ∧
      field v 16 4 = mask ∧ field v 12 4 = 15#4 ∧ field v 4 8 = 0#8 ∧ bitAt v 4 = false ∧ field v 0 4 = rm := by
  simp [msrRegWord, field_put_below, field_put_above]

theorem msrRegWord_of_fields {w : Word} {spsr : Bool} (h : field w 25 3 = 0#3)
    (hop : field w 21 4 = if spsr then 11#4 else 9#4) (h20 : bitAt w 20 = false) (h12 : field w 12 4 = 15#4)
    (h4 : field w 4 8 = 0#8) : msrRegWord (Cond.ofBits (field w 28 4)) spsr (field w 16 4) (field w 0 4) = w :=
  eq_of_fields [(28, 4), (25, 3), (21, 4), (20, 1), (16, 4), (12, 4), (4, 8), (0, 4)] (by decide)
    (by simp [h, hop, h20, h12, h4, Cond.toBits_ofBits])

@[simp] theorem msrImmWord_fields (c : Cond) (spsr : Bool) (mask rot : BitVec 4) (imm : BitVec 8) :
    let v := msrImmWord c spsr mask rot imm
    field v 28 4 = c.toBits ∧ field v 25 3 = 1#3 ∧ field v 21 4 = (if spsr then 11#4 else 9#4) ∧ bitAt v 20 = false ∧
      field v 16 4 = mask ∧ field v 12 4 = 15#4 ∧ field v 8 4 = rot ∧ field v 0 8 = imm := by
  simp [msrImmWord, field_put_below, field_put_above]

theorem msrImmWord_of_fields {w : Word} {spsr : Bool} (h : field w 25 3 = 1#3)
    (hop : field w 21 4 = if spsr then 11#4 else 9#4) (h20 : bitAt w 20 = false) (h12 : field w 12 4 = 15#4) :
    msrImmWord (Cond.ofBits (field w 28 4)) spsr (field w 16 4) (field w 8 4) (field w 0 8) = w :=
  eq_of_fields [(28, 4), (25, 3), (21, 4), (20, 1), (16, 4), (12, 4), (8, 4), (0, 8)] (by decide)
    (by simp [h, hop, h20, h12, Cond.toBits_ofBits])

@[simp] theorem bxWord_fields (c : Cond) (rm : RegNum) :
    let v := bxWord c rm
    field v 28 4 = c.toBits ∧ field v 25 3 = 0#3 ∧ field v 21 4 = 9#4 ∧ bitAt v 20 = false ∧ field v 8 12 = 0xFFF#12 ∧
      bitAt v 7 = false ∧ field v 5 2 = 0#2 ∧ bitAt v 4 = true ∧ field v 0 4 = rm := by
  simp [bxWord, field_put_below, field_put_above]

theorem bxWord_of_fields {w : Word} (h : field w 25 3 = 0#3) (hop : field w 21 4 = 9#4) (h20 : bitAt w 20 = false)
    (h8 : field w 8 12 = 0xFFF#12) (h7 : bitAt w 7 = false) (h5 : field w 5 2 = 0#2) (h4 : bitAt w 4 = true) :
    bxWord (Cond.ofBits (field w 28 4)) (field w 0 4) = w :=
  eq_of_fields [(28, 4), (25, 3), (21, 4), (20, 1), (8, 12), (7, 1), (5, 2), (4, 1), (0, 4)] (by decide)
    (by simp [h, hop, h20, h8, h7, h5, h4, Cond.toBits_ofBits])

@[simp] theorem multiplyWord_fields (op : BitVec 4) (c : Cond) (f : Bool) (a b rs rm : RegNum) :
    let v := multiplyWord op c f a b rs rm
    field v 28 4 = c.toBits ∧ field v 25 3 = 0#3 ∧ field v 21 4 = op ∧ bitAt v 20 = f ∧ field v 16 4 = a ∧
      field v 12 4 = b ∧ field v 8 4 = rs ∧ bitAt v 7 = true ∧ field v 5 2 = 0#2 ∧ bitAt v 4 = true ∧ field v 0 4 = rm := by
  simp [multiplyWord, putBit, field_put_below, field_put_above]

theorem multiplyWord_of_fields {w : Word} (h : field w 25 3 = 0#3) (h7 : bitAt w 7 = true) (h5 : field w 5 2 = 0#2)
    (h4 : bitAt w 4 = true) :
    multiplyWord (field w 21 4) (Cond.ofBits (field w 28 4)) (bitAt w 20) (field w 16 4) (field w 12 4) (field w 8 4)
      (field w 0 4) = w :=
  eq_of_fields [(28, 4), (25, 3), (21, 4), (20, 1), (16, 4), (12, 4), (8, 4), (7, 1), (5, 2), (4, 1), (0, 4)] (by decide)
    (by simp [h, h7, h5, h4, Cond.toBits_ofBits])

@[simp] theorem halfWord_fields (kind : BitVec 2) (c : Cond) (p u im w l : Bool) (rn rd : RegNum) (hi lo : BitVec 4) :
    let v := halfWord kind c p u im w l rn rd hi lo
    field v 28 4 = c.toBits ∧ field v 25 3 = 0#3 ∧ bitAt v 24 = p ∧ bitAt v 23 = u ∧ bitAt v 22 = im ∧ bitAt v 21 = w ∧
      bitAt v 20 = l ∧ field v 16 4 = rn ∧ field v 12 4 = rd ∧ field v 8 4 = hi ∧ bitAt v 7 = true ∧ field v 5 2 = kind ∧
      bitAt v 4 = true ∧ field v 0 4 = lo := by
  simp [halfWord, putBit, field_put_below, field_put_above]

theorem halfWord_of_fields {w : Word} (h : field w 25 3 = 0#3) (h7 : bitAt w 7 = true) (h4 : bitAt w 4 = true) :
    halfWord (field w 5 2) (Cond.ofBits (field w 28 4)) (bitAt w 24) (bitAt w 23) (bitAt w 22) (bitAt w 21) (bitAt w 20)
      (field w 16 4) (field w 12 4) (field w 8 4) (field w 0 4) = w :=
  eq_of_fields [(28, 4), (25, 3), (24, 1), (23, 1), (22, 1), (21, 1), (20, 1), (16, 4), (12, 4), (8, 4), (7, 1), (5, 2), (4, 1),
    (0, 4)] (by decide) (by simp [h, h7, h4, Cond.toBits_ofBits])

@[simp] theorem sdtImmWord_fields (c : Cond) (p u b w l : Bool) (rn rd : RegNum) (off : BitVec 12) :
    let v := sdtImmWord c p u b w l rn rd off
    field v 28 4 = c.toBits ∧ field v 25 3 = 2#3 ∧ bitAt v 24 = p ∧ bitAt v 23 = u ∧ bitAt v 22 = b ∧ bitAt v 21 = w ∧
      bitAt v 20 = l ∧ field v 16 4 = rn ∧ field v 12 4 = rd ∧ field v 0 12 = off := by
  simp [sdtImmWord, putBit, field_put_below, field_put_above]

theorem sdtImmWord_of_fields {w : Word} (h : field w 25 3 = 2#3) :
    sdtImmWord (Cond.ofBits (field w 28 4)) (bitAt w 24) (bitAt w 23) (bitAt w 22) (bitAt w 21) (bitAt w 20) (field w 16 4)
      (field w 12 4) (field w 0 12) = w :=
  eq_of_fields [(28, 4), (25, 3), (24, 1), (23, 1), (22, 1), (21, 1), (20, 1), (16, 4), (12, 4), (0, 12)] (by decide)
    (by simp [h, Cond.toBits_ofBits])

@[simp] theorem sdtRegWord_fields (c : Cond) (p u b w l : Bool) (rn rd : RegNum) (amt : BitVec 5) (sh : ShiftKind) (rm : RegNum) :
    let v := sdtRegWord c p u b w l rn rd amt sh rm
    field v 28 4 = c.toBits ∧ field v 25 3 = 3#3 ∧ bitAt v 24 = p ∧ bitAt v 23 = u ∧ bitAt v 22 = b ∧ bitAt v 21 = w ∧
      bitAt v 20 = l ∧ field v 16 4 = rn ∧ field v 12 4 = rd ∧ field v 7 5 = amt ∧ field v 5 2 = sh.toBits ∧
      bitAt v 4 = false ∧ field v 0 4 = rm := by
  simp [sdtRegWord, putBit, field_put_below, field_put_above]

theorem sdtRegWord_of_fields {w : Word} (h : field w 25 3 = 3#3) (h4 : bitAt w 4 = false) :
    sdtRegWord (Cond.ofBits (field w 28 4)) (bitAt w 24) (bitAt w 23) (bitAt w 22) (bitAt w 21) (bitAt w 20) (field w 16 4)
      (field w 12 4) (field w 7 5) (ShiftKind.ofBits (field w 5 2)) (field w 0 4) = w :=
  eq_of_fields [(28, 4), (25, 3), (24, 1), (23, 1), (22, 1), (21, 1), (20, 1), (16, 4), (12, 4), (7, 5), (5, 2), (4, 1), (0, 4)]
    (by decide) (by simp [h, h4, Cond.toBits_ofBits, ShiftKind.toBits_ofBits])

@[simp] theorem undWord_fields (c : Cond) (hi : BitVec 20) (lo : BitVec 4) :
    let v := undWord c hi lo
    field v 28 4 = c.toBits ∧ field v 25 3 = 3#3 ∧ field v 5 20 = hi ∧ bitAt v 4 = true ∧ field v 0 4 = lo := by
  simp [undWord, field_put_below, field_put_above]

theorem undWord_of_fields {w : Word} (h : field w 25 3 = 3#3) (h4 : bitAt w 4 = true) :
    undWord (Cond.ofBits (field w 28 4)) (field w 5 20) (field w 0 4) = w :=
  eq_of_fields [(28, 4), (25, 3), (5, 20), (4, 1), (0, 4)] (by decide) (by simp [h, h4, Cond.toBits_ofBits])

@[simp] theorem blockWord_fields (c : Cond) (p u ub w l : Bool) (rn : RegNum) (list : BitVec 16) :
    let v := blockWord c p u ub w l rn list
    field v 28 4 = c.toBits ∧ field v 25 3 = 4#3 ∧ bitAt v 24 = p ∧ bitAt v 23 = u ∧ bitAt v 22 = ub ∧ bitAt v 21 = w ∧
      bitAt v 20 = l ∧ field v 16 4 = rn ∧ field v 0 16 = list := by
  simp [blockWord, putBit, field_put_below, field_put_above]

theorem blockWord_of_fields {w : Word} (h : field w 25 3 = 4#3) :
    blockWord (Cond.ofBits (field w 28 4)) (bitAt w 24) (bitAt w 23) (bitAt w 22) (bitAt w 21) (bitAt w 20) (field w 16 4)
      (field w 0 16) = w :=
  eq_of_fields [(28, 4), (25, 3), (24, 1), (23, 1), (22, 1), (21, 1), (20, 1), (16, 4), (0, 16)] (by decide)
    (by simp [h, Cond.toBits_ofBits])

@[simp] theorem branchWord_fields (c : Cond) (l : Bool) (off : BitVec 24) :
    let v := branchWord c l off
    field v 28 4 = c.toBits ∧ field v 25 3 = 5#3 ∧ bitAt v 24 = l ∧ field v 0 24 = off := by
  simp [branchWord, putBit, field_put_below, field_put_above]

theorem branchWord_of_fields {w : Word} (h : field w 25 3 = 5#3) :
    branchWord (Cond.ofBits (field w 28 4)) (bitAt w 24) (field w 0 24) = w :=
  eq_of_fields [(28, 4), (25, 3), (24, 1), (0, 24)] (by decide) (by simp [h, Cond.toBits_ofBits])

@[simp] theorem coprocTransferWord_fields (c : Cond) (l : Bool) (ix : BitVec 4) (rn : RegNum) (crd cp : BitVec 4)
    (off : BitVec 8) :
    let v := coprocTransferWord c l ix rn crd cp off
    field v 28 4 = c.toBits ∧ field v 25 3 = 6#3 ∧ field v 21 4 = ix ∧ bitAt v 20 = l ∧ field v 16 4 = rn ∧
      field v 12 4 = crd ∧ field v 8 4 = cp ∧ field v 0 8 = off := by
  simp [coprocTransferWord, putBit, field_put_below, field_put_above]

theorem coprocTransferWord_of_fields {w : Word} (h : field w 25 3 = 6#3) :
    coprocTransferWord (Cond.ofBits (field w 28 4)) (bitAt w 20) (field w 21 4) (field w 16 4) (field w 12 4) (field w 8 4)
      (field w 0 8) = w :=
  eq_of_fields [(28, 4), (25, 3), (21, 4), (20, 1), (16, 4), (12, 4), (8, 4), (0, 8)] (by decide)
    (by simp [h, Cond.toBits_ofBits])

@[simp] theorem coprocOpWord_fields (c : Cond) (op1 crn crd cp : BitVec 4) (op2 : BitVec 3) (crm : BitVec 4) :
    let v := coprocOpWord c op1 crn crd cp op2 crm
    field v 28 4 = c.toBits ∧ field v 25 3 = 7#3 ∧ bitAt v 24 = false ∧ field v 20 4 = op1 ∧ field v 16 4 = crn ∧
      field v 12 4 = crd ∧ field v 8 4 = cp ∧ field v 5 3 = op2 ∧ bitAt v 4 = false ∧ field v 0 4 = crm := by
  simp [coprocOpWord, field_put_below, field_put_above]

theorem coprocOpWord_of_fields {w : Word} (h : field w 25 3 = 7#3) (h24 : bitAt w 24 = false) (h4 : bitAt w 4 = false) :
    coprocOpWord (Cond.ofBits (field w 28 4)) (field w 20 4) (field w 16 4) (field w 12 4) (field w 8 4) (field w 5 3)
      (field w 0 4) = w :=
  eq_of_fields [(28, 4), (25, 3), (24, 1), (20, 4), (16, 4), (12, 4), (8, 4), (5, 3), (4, 1), (0, 4)] (by decide)
    (by simp [h, h24, h4, Cond.toBits_ofBits])

@[simp] theorem coprocRegWord_fields (c : Cond) (l : Bool) (op1 : BitVec 3) (crn : BitVec 4) (rd : RegNum) (cp : BitVec 4)
    (op2 : BitVec 3) (crm : BitVec 4) :
    let v := coprocRegWord c l op1 crn rd cp op2 crm
    field v 28 4 = c.toBits ∧ field v 25 3 = 7#3 ∧ bitAt v 24 = false ∧ field v 21 3 = op1 ∧ bitAt v 20 = l ∧
      field v 16 4 = crn ∧ field v 12 4 = rd ∧ field v 8 4 = cp ∧ field v 5 3 = op2 ∧ bitAt v 4 = true ∧
      field v 0 4 = crm := by
  simp [coprocRegWord, putBit, field_put_below, field_put_above]

theorem coprocRegWord_of_fields {w : Word} (h : field w 25 3 = 7#3) (h24 : bitAt w 24 = false) (h4 : bitAt w 4 = true) :
    coprocRegWord (Cond.ofBits (field w 28 4)) (bitAt w 20) (field w 21 3) (field w 16 4) (field w 12 4) (field w 8 4)
      (field w 5 3) (field w 0 4) = w :=
  eq_of_fields [(28, 4), (25, 3), (24, 1), (21, 3), (20, 1), (16, 4), (12, 4), (8, 4), (5, 3), (4, 1), (0, 4)] (by decide)
    (by simp [h, h24, h4, Cond.toBits_ofBits])

@[simp] theorem swiWord_fields (c : Cond) (comment : BitVec 24) :
    let v := swiWord c comment
    field v 28 4 = c.toBits ∧ field v 25 3 = 7#3 ∧ bitAt v 24 = true ∧ field v 0 24 = comment := by
  simp [swiWord, field_put_below, field_put_above]

theorem swiWord_of_fields {w : Word} (h : field w 25 3 = 7#3) (h24 : bitAt w 24 = true) :
    swiWord (Cond.ofBits (field w 28 4)) (field w 0 24) = w :=
  eq_of_fields [(28, 4), (25, 3), (24, 1), (0, 24)] (by decide) (by simp [h, h24, Cond.toBits_ofBits])

/-! ### The Thumb layouts -/

@[simp] theorem thumbWide_fields (top x : BitVec 5) (a b : BitVec 3) :
    let v := thumbWide top x a b
    field v 11 5 = top ∧ field v 6 5 = x ∧ field v 3 3 = a ∧ field v 0 3 = b := by
  simp [thumbWide, field_put_below, field_put_above]

theorem thumbWide_of_fields {h : Half} {top : BitVec 5} (htop : (field h 11 5).toNat = top.toNat) :
    thumbWide top (field h 6 5) (field h 3 3) (field h 0 3) = h :=
  eq_of_fields [(11, 5), (6, 5), (3, 3), (0, 3)] (by decide) (by simp [BitVec.eq_of_toNat_eq htop])

@[simp] theorem thumbThree_fields (top : BitVec 5) (b10 b9 : Bool) (x a b : BitVec 3) :
    let v := thumbThree top b10 b9 x a b
    field v 11 5 = top ∧ bitAt v 11 = top.getLsbD 0 ∧ bitAt v 10 = b10 ∧ bitAt v 9 = b9 ∧ field v 6 3 = x ∧ field v 3 3 = a ∧
      field v 0 3 = b := by
  simp [thumbThree, putBit, field_put_below, field_put_above]

theorem thumbThree_of_fields {h : Half} {top : BitVec 5} {b10 b9 : Bool} (htop : (field h 11 5).toNat = top.toNat)
    (h10 : bitAt h 10 = b10) (h9 : bitAt h 9 = b9) :
    thumbThree top b10 b9 (field h 6 3) (field h 3 3) (field h 0 3) = h :=
  eq_of_fields [(11, 5), (10, 1), (9, 1), (6, 3), (3, 3), (0, 3)] (by decide) (by simp [BitVec.eq_of_toNat_eq htop, h10, h9])

@[simp] theorem thumbByte_fields (top : BitVec 5) (r : BitVec 3) (x : BitVec 8) :
    let v := thumbByte top r x
    field v 11 5 = top ∧ field v 8 3 = r ∧ field v 0 8 = x := by
  simp [thumbByte, field_put_below, field_put_above]

theorem thumbByte_of_fields {h : Half} {top : BitVec 5} (htop : (field h 11 5).toNat = top.toNat) :
    thumbByte top (field h 8 3) (field h 0 8) = h :=
  eq_of_fields [(11, 5), (8, 3), (0, 8)] (by decide) (by simp [BitVec.eq_of_toNat_eq htop])

@[simp] theorem thumbAluWord_fields (op : BitVec 4) (rs rd : LowReg) :
    let v := thumbAluWord op rs rd
    field v 11 5 = 8#5 ∧ bitAt v 10 = false ∧ field v 6 4 = op ∧ field v 3 3 = rs ∧ field v 0 3 = rd := by
  simp [thumbAluWord, field_put_below, field_put_above]

theorem thumbAluWord_of_fields {h : Half} (htop : (field h 11 5).toNat = 8) (h10 : bitAt h 10 = false) :
    thumbAluWord (field h 6 4) (field h 3 3) (field h 0 3) = h :=
  eq_of_fields [(11, 5), (10, 1), (6, 4), (3, 3), (0, 3)] (by decide) (by simp [(BitVec.toNat_eq_nat.mp htop).2, h10])

@[simp] theorem thumbHiWord_fields (op : BitVec 2) (h1 : Bool) (m : RegNum) (lo : BitVec 3) :
    let v := thumbHiWord op h1 m lo
    field v 11 5 = 8#5 ∧ bitAt v 10 = true ∧ field v 8 2 = op ∧ bitAt v 7 = h1 ∧ bitAt v 6 = bitAt m 3 ∧
      field v 3 3 = field m 0 3 ∧ field v 0 3 = lo := by
  simp [thumbHiWord, putBit, field_put_below, field_put_above]

@[simp] theorem bitAt_hiReg (b : Bool) (r : BitVec 3) : bitAt (hiReg b r) 3 = b := by
  revert b r
  decide

@[simp] theorem field_hiReg (b : Bool) (r : BitVec 3) : field (hiReg b r) 0 3 = r := by
  revert b r
  decide

theorem thumbHiWord_of_fields {h : Half} (htop : (field h 11 5).toNat = 8) (h10 : bitAt h 10 = true) :
    thumbHiWord (field h 8 2) (bitAt h 7) (hiReg (bitAt h 6) (field h 3 3)) (field h 0 3) = h :=
  eq_of_fields [(11, 5), (10, 1), (8, 2), (7, 1), (6, 1), (3, 3), (0, 3)] (by decide)
    (by simp [(BitVec.toNat_eq_nat.mp htop).2, h10])

@[simp] theorem thumbStackWord_fields (top : BitVec 5) (r : Bool) (list : BitVec 8) :
    let v := thumbStackWord top r list
    field v 11 5 = top ∧ field v 9 2 = 2#2 ∧ bitAt v 8 = r ∧ field v 0 8 = list := by
  simp [thumbStackWord, putBit, field_put_below, field_put_above]

theorem thumbStackWord_of_fields {h : Half} {top : BitVec 5} (htop : (field h 11 5).toNat = top.toNat)
    (h9 : field h 9 2 = 2#2) : thumbStackWord top (bitAt h 8) (field h 0 8) = h :=
  eq_of_fields [(11, 5), (9, 2), (8, 1), (0, 8)] (by decide) (by simp [BitVec.eq_of_toNat_eq htop, h9])

@[simp] theorem thumbLong_fields (top : BitVec 5) (off : BitVec 11) :
    let v := thumbLong top off
    field v 11 5 = top ∧ field v 0 11 = off := by
  simp [thumbLong, field_put_below, field_put_above]

theorem thumbLong_of_fields {h : Half} {top : BitVec 5} (htop : (field h 11 5).toNat = top.toNat) :
    thumbLong top (field h 0 11) = h :=
  eq_of_fields [(11, 5), (0, 11)] (by decide) (by simp [BitVec.eq_of_toNat_eq htop])

/-- A halfword that adjusts the stack pointer: bits 10:8 = 000 (format 13, R340). -/
theorem adjustSp_of_fields {h : Half} (htop : (field h 11 5).toNat = 22) (h9 : field h 9 2 = 0#2) (h8 : bitAt h 8 = false) :
    encode (.tAdjustSp (bitAt h 7) (field h 0 7)) = .thumb h :=
  congrArg Code.thumb <| eq_of_fields [(11, 5), (9, 2), (8, 1), (7, 1), (0, 7)] (by decide)
    (by simp [(BitVec.toNat_eq_nat.mp htop).2, h9, h8, putBit, field_put_below, field_put_above])

end Sys2Proof
end

section
/-! PROOFS. Every word that decodes is the encoding of what it decodes to (O2): part by part of the two decoders. -/

namespace Sys2Proof

/-! ### The rows of the data-processing opcodes -/

theorem encode_dpImm {op : DpOp} {f : Bool} (h : (op.isCompare && !f) = false) (c : Cond) (rn rd : RegNum) (rot : BitVec 4)
    (imm : BitVec 8) : encode (.dpImm op c f rn rd rot imm) = .arm (dpImmWord op.toBits c f rn rd rot imm) := by
  cases op <;> simp_all [DpOp.isCompare, Instr.dpImm, encode]

theorem encode_dpShiftImm {op : DpOp} {f : Bool} (h : (op.isCompare && !f) = false) (c : Cond) (rn rd : RegNum) (amt : BitVec 5)
    (sh : ShiftKind) (rm : RegNum) :
    encode (.dpShiftImm op c f rn rd amt sh rm) = .arm (dpShiftImmWord op.toBits c f rn rd amt sh rm) := by
  cases op <;> simp_all [DpOp.isCompare, Instr.dpShiftImm, encode]

theorem encode_dpShiftReg {op : DpOp} {f : Bool} (h : (op.isCompare && !f) = false) (c : Cond) (rn rd rs : RegNum)
    (sh : ShiftKind) (rm : RegNum) :
    encode (.dpShiftReg op c f rn rd rs sh rm) = .arm (dpShiftRegWord op.toBits c f rn rd rs sh rm) := by
  cases op <;> simp_all [DpOp.isCompare, Instr.dpShiftReg, encode]

/-! ### The parts of the ARM decoder -/

theorem encode_decodeArmDpImm {w : Word} {i : Instr} (h : field w 25 3 = 1#3)
    (hi : decodeArmDpImm w (Cond.ofBits (field w 28 4)) = some i) : encode i = .arm w := by
  simp only [decodeArmDpImm] at hi
  split at hi
  case isTrue hcmp =>
    obtain ⟨-, h20⟩ : _ ∧ bitAt w 20 = false := by simpa using hcmp
    split at hi
    case h_1 hop | h_2 hop =>
      split at hi <;> cases hi
      exact congrArg Code.arm (msrImmWord_of_fields h (DpOp.ofBits_eq_iff.mp hop) h20 ‹_›)
    case h_3 => cases hi
  case isFalse hdp =>
    cases hi
    rw [encode_dpImm (Bool.eq_false_of_not_eq_true hdp), DpOp.toBits_ofBits, dpImmWord_of_fields h]

theorem encode_decodeArmShiftImm {w : Word} {i : Instr} (h : field w 25 3 = 0#3) (h4 : bitAt w 4 = false)
    (hi : decodeArmShiftImm w (Cond.ofBits (field w 28 4)) = some i) : encode i = .arm w := by
  simp only [decodeArmShiftImm] at hi
  split at hi
  case isTrue hcmp =>
    obtain ⟨hcmp, h20⟩ : _ ∧ bitAt w 20 = false := by simpa using hcmp
    rcases DpOp.isCompare_iff.mp hcmp with hop | hop | hop | hop
    all_goals
      simp only [hop, Bool.and_eq_true, decide_eq_true_eq, Option.ite_none_right_eq_some, Option.some.injEq] at hi
      rw [DpOp.ofBits_eq_iff] at hop
      obtain ⟨⟨hones, hzeros⟩, rfl⟩ := hi
    case inl | inr.inr.inl => exact congrArg Code.arm (mrsWord_of_fields h hop h20 hones hzeros)
    case inr.inl | inr.inr.inr => exact congrArg Code.arm (msrRegWord_of_fields h hop h20 hones hzeros)
  case isFalse hdp =>
    cases hi
    rw [encode_dpShiftImm (Bool.eq_false_of_not_eq_true hdp), DpOp.toBits_ofBits, dpShiftImmWord_of_fields h h4]

theorem encode_decodeArmShiftReg {w : Word} {i : Instr} (h : field w 25 3 = 0#3) (h4 : bitAt w 4 = true)
    (h7 : bitAt w 7 = false) (hi : decodeArmShiftReg w (Cond.ofBits (field w 28 4)) = some i) : encode i = .arm w := by
  simp only [decodeArmShiftReg] at hi
  split at hi
  case isTrue hcmp =>
    obtain ⟨-, h20⟩ : _ ∧ bitAt w 20 = false := by simpa using hcmp
    simp only [Bool.and_eq_true, decide_eq_true_eq, Option.ite_none_right_eq_some, Option.some.injEq] at hi
    obtain ⟨⟨⟨hop, h8⟩, h5⟩, rfl⟩ := hi
    exact congrArg Code.arm (bxWord_of_fields h (DpOp.ofBits_eq_iff.mp hop) h20 h8 h7 h5 h4)
  case isFalse hdp =>
    cases hi
    rw [encode_dpShiftReg (Bool.eq_false_of_not_eq_true hdp), DpOp.toBits_ofBits, dpShiftRegWord_of_fields h h4 h7]

theorem encode_decodeArmMultiply {w : Word} {i : Instr} {c : Cond} (hi : decodeArmMultiply w c = some i) :
    encode i = .arm (multiplyWord (field w 21 4) c (bitAt w 20) (field w 16 4) (field w 12 4) (field w 8 4) (field w 0 4)) := by
  simp only [decodeArmMultiply] at hi
  split at hi
  case h_9 => cases hi
  case h_7 hop | h_8 hop =>
    simp only [Bool.and_eq_true, Bool.not_eq_true', decide_eq_true_eq, Option.ite_none_right_eq_some, Option.some.injEq] at hi
    obtain ⟨⟨h20, h8⟩, rfl⟩ := hi
    rw [(BitVec.toNat_eq_nat.mp hop).2, h20, h8]
    rfl
  all_goals
    cases hi
    rw [(BitVec.toNat_eq_nat.mp ‹(field w 21 4).toNat = _›).2]
    rfl

theorem encode_decodeArmHalf {w : Word} {i : Instr} {c : Cond} (hi : decodeArmHalf w c = some i) :
    encode i = .arm (halfWord (field w 5 2) c (bitAt w 24) (bitAt w 23) (bitAt w 22) (bitAt w 21) (bitAt w 20) (field w 16 4)
      (field w 12 4) (field w 8 4) (field w 0 4)) := by
  simp only [decodeArmHalf] at hi
  split at hi
  case h_9 => cases hi
  case h_5 hp hl hk | h_6 hp hl hk | h_7 hp hl hk | h_8 hp hl hk =>
    simp only [Option.ite_none_left_eq_some, Option.some.injEq, Bool.not_eq_true] at hi
    obtain ⟨hw, rfl⟩ := hi
    rw [(BitVec.toNat_eq_nat.mp hk).2, hp, hl, hw]
    rfl
  case h_1 hp hl hk | h_2 hp hl hk | h_3 hp hl hk | h_4 hp hl hk =>
    cases hi
    rw [(BitVec.toNat_eq_nat.mp hk).2, hp, hl]
    rfl

theorem encode_decodeArmSdtImm (w : Word) (c : Cond) :
    encode (decodeArmSdtImm w c) = .arm (sdtImmWord c (bitAt w 24) (bitAt w 23) (bitAt w 22) (bitAt w 21) (bitAt w 20)
      (field w 16 4) (field w 12 4) (field w 0 12)) := by
  simp only [decodeArmSdtImm]
  repeat' split
  all_goals simp only [encode, *]

theorem encode_decodeArmSdtReg (w : Word) (c : Cond) :
    encode (decodeArmSdtReg w c) = .arm (sdtRegWord c (bitAt w 24) (bitAt w 23) (bitAt w 22) (bitAt w 21) (bitAt w 20)
      (field w 16 4) (field w 12 4) (field w 7 5) (ShiftKind.ofBits (field w 5 2)) (field w 0 4)) := by
  simp only [decodeArmSdtReg]
  repeat' split
  all_goals simp only [encode, *]

theorem encode_decodeArmBlock (w : Word) (c : Cond) :
    encode (decodeArmBlock w c) = .arm (blockWord c (bitAt w 24) (bitAt w 23) (bitAt w 22) (bitAt w 21) (bitAt w 20)
      (field w 16 4) (field w 0 16)) := by
  simp only [decodeArmBlock]
  split <;> simp only [encode, *]

theorem encode_decodeArmSwiCoproc {w : Word} (h : field w 25 3 = 7#3) :
    encode (decodeArmSwiCoproc w (Cond.ofBits (field w 28 4))) = .arm w := by
  simp only [decodeArmSwiCoproc]
  split
  case isTrue h24 => exact congrArg Code.arm (swiWord_of_fields h h24)
  case isFalse h24 =>
    rw [Bool.not_eq_true] at h24
    split
    case isTrue h4 =>
      refine Eq.trans ?_ (congrArg Code.arm (coprocRegWord_of_fields h h24 h4))
      split <;> simp only [encode, *]
    case isFalse h4 => exact congrArg Code.arm (coprocOpWord_of_fields h h24 (Bool.eq_false_of_not_eq_true h4))

theorem encode_decodeArm {w : Word} {i : Instr} (hi : decodeArm w = some i) : encode i = .arm w := by
  simp only [decodeArm] at hi
  split at hi
  case h_1 h =>
    have h : field w 25 3 = 0#3 := (BitVec.toNat_eq_nat.mp h).2
    split at hi
    case isTrue h4 => exact encode_decodeArmShiftImm h (by simpa using h4) hi
    case isFalse h4 =>
      have h4 : bitAt w 4 = true := by simpa using h4
      split at hi
      case isTrue h7 => exact encode_decodeArmShiftReg h h4 (by simpa using h7) hi
      case isFalse h7 =>
        have h7 : bitAt w 7 = true := by simpa using h7
        split at hi
        case isTrue h5 => rw [encode_decodeArmMultiply hi, multiplyWord_of_fields h h7 h5 h4]
        case isFalse => rw [encode_decodeArmHalf hi, halfWord_of_fields h h7 h4]
  case h_2 h => exact encode_decodeArmDpImm (BitVec.toNat_eq_nat.mp h).2 hi
  case h_3 h =>
    cases hi
    rw [encode_decodeArmSdtImm, sdtImmWord_of_fields (BitVec.toNat_eq_nat.mp h).2]
  case h_4 h =>
    cases hi
    split
    case isTrue h4 => exact congrArg Code.arm (undWord_of_fields (BitVec.toNat_eq_nat.mp h).2 h4)
    case isFalse h4 =>
      rw [encode_decodeArmSdtReg, sdtRegWord_of_fields (BitVec.toNat_eq_nat.mp h).2 (Bool.eq_false_of_not_eq_true h4)]
  case h_5 h =>
    cases hi
    rw [encode_decodeArmBlock, blockWord_of_fields (BitVec.toNat_eq_nat.mp h).2]
  case h_6 h =>
    cases hi
    refine Eq.trans ?_ (congrArg Code.arm (branchWord_of_fields (BitVec.toNat_eq_nat.mp h).2))
    split <;> simp only [encode, *]
  case h_7 h =>
    cases hi
    refine Eq.trans ?_ (congrArg Code.arm (coprocTransferWord_of_fields (BitVec.toNat_eq_nat.mp h).2))
    split <;> simp only [encode, *]
  case h_8 =>
    cases hi
    have hlt := (field w 25 3).isLt
    have h : (field w 25 3).toNat = 7 := by grind
    exact encode_decodeArmSwiCoproc (BitVec.toNat_eq_nat.mp h).2

/-! ### The Thumb decoder -/

theorem encode_decodeThumbAlu (h : Half) :
    encode (decodeThumbAlu h) = .thumb (thumbAluWord (field h 6 4) (field h 3 3) (field h 0 3)) := by
  simp only [decodeThumbAlu]
  split
  case h_16 =>
    have hlt := (field h 6 4).isLt
    have hop : (field h 6 4).toNat = 15 := by grind
    rw [(BitVec.toNat_eq_nat.mp hop).2]
    rfl
  all_goals
    rw [(BitVec.toNat_eq_nat.mp ‹(field h 6 4).toNat = _›).2]
    rfl

theorem encode_decodeThumbHi {h : Half} {i : Instr} (hi : decodeThumbHi h = some i) :
    encode i = .thumb (thumbHiWord (field h 8 2) (bitAt h 7) (hiReg (bitAt h 6) (field h 3 3)) (field h 0 3)) := by
  simp only [decodeThumbHi] at hi
  split at hi
  case h_4 =>
    have hlt := (field h 8 2).isLt
    have hop : (field h 8 2).toNat = 3 := by grind
    simp only [Option.ite_none_left_eq_some, Option.some.injEq, Bool.not_eq_true] at hi
    obtain ⟨h7, rfl⟩ := hi
    rw [(BitVec.toNat_eq_nat.mp hop).2, h7]
    rfl
  case h_1 hop | h_2 hop | h_3 hop =>
    cases hi
    simp [encode, (BitVec.toNat_eq_nat.mp hop).2]

/-- Formats 7 and 8 have the opcodes 10 and 11: bit 11 is the lowest bit of both. -/
theorem encode_decodeThumbRegOffset {h : Half} (htop : (field h 11 5).toNat = 10 + (bitAt h 11).toNat) :
    encode (decodeThumbRegOffset h) = .thumb h := by
  simp only [decodeThumbRegOffset]
  split
  all_goals
    rename_i h11 h10 h9
    rw [h11] at htop
    exact congrArg Code.thumb (thumbThree_of_fields htop h10 h9)

theorem encode_decodeThumbCondLow (h : Half) :
    encode (decodeThumbCondLow h) = .thumb (thumbByte 26#5 (field h 8 3) (field h 0 8)) := by
  simp only [decodeThumbCondLow]
  split
  case h_8 =>
    have hlt := (field h 8 3).isLt
    have hop : (field h 8 3).toNat = 7 := by grind
    rw [(BitVec.toNat_eq_nat.mp hop).2]
    rfl
  all_goals
    rw [(BitVec.toNat_eq_nat.mp ‹(field h 8 3).toNat = _›).2]
    rfl

theorem encode_decodeThumbCondHigh (h : Half) :
    encode (decodeThumbCondHigh h) = .thumb (thumbByte 27#5 (field h 8 3) (field h 0 8)) := by
  simp only [decodeThumbCondHigh]
  split
  case h_8 =>
    have hlt := (field h 8 3).isLt
    have hop : (field h 8 3).toNat = 7 := by grind
    rw [(BitVec.toNat_eq_nat.mp hop).2]
    rfl
  all_goals
    rw [(BitVec.toNat_eq_nat.mp ‹(field h 8 3).toNat = _›).2]
    rfl

theorem encode_decodeThumb {h : Half} {i : Instr} (hi : decodeThumb h = some i) : encode i = .thumb h := by
  simp only [decodeThumb] at hi
  split at hi
  -- format 2
  case h_4 htop =>
    split at hi <;> cases hi
    all_goals
      rename_i h10 h9
      exact congrArg Code.thumb (thumbThree_of_fields htop h10 h9)
  -- formats 4 and 5
  case h_9 htop =>
    split at hi
    case isTrue h10 => rw [encode_decodeThumbHi hi, thumbHiWord_of_fields htop h10]
    case isFalse h10 =>
      cases hi
      rw [encode_decodeThumbAlu, thumbAluWord_of_fields htop (Bool.eq_false_of_not_eq_true h10)]
  -- formats 7 and 8
  case h_11 htop | h_12 htop =>
    cases hi
    have h11 : bitAt h 11 = (field h 11 5).getLsbD 0 := by simp [bitAt, field]
    rw [(BitVec.toNat_eq_nat.mp htop).2] at h11
    exact encode_decodeThumbRegOffset (by rw [htop, h11]; rfl)
  -- formats 13 and 14
  case h_23 htop =>
    split at hi
    case isTrue hadjust =>
      cases hi
      obtain ⟨h9, h8⟩ : field h 9 2 = 0#2 ∧ bitAt h 8 = false := by simpa using hadjust
      exact adjustSp_of_fields htop h9 h8
    case isFalse =>
      split at hi <;> cases hi
      exact congrArg Code.thumb (thumbStackWord_of_fields htop ‹_›)
  case h_24 htop =>
    split at hi <;> cases hi
    exact congrArg Code.thumb (thumbStackWord_of_fields htop ‹_›)
  -- formats 16 and 17
  case h_27 htop =>
    cases hi
    rw [encode_decodeThumbCondLow, thumbByte_of_fields htop]
  case h_28 htop =>
    cases hi
    rw [encode_decodeThumbCondHigh, thumbByte_of_fields htop]
  -- formats 18 and 19
  case h_30 => cases hi
  case h_29 htop | h_31 htop =>
    cases hi
    exact congrArg Code.thumb (thumbLong_of_fields htop)
  case h_32 =>
    cases hi
    have hlt := (field h 11 5).isLt
    have htop : (field h 11 5).toNat = 31 := by grind
    exact congrArg Code.thumb (thumbLong_of_fields htop)
  -- formats 1, 9 and 10
  case h_1 htop | h_2 htop | h_3 htop | h_13 htop | h_14 htop | h_15 htop | h_16 htop | h_17 htop | h_18 htop =>
    cases hi
    exact congrArg Code.thumb (thumbWide_of_fields htop)
  -- formats 3, 6, 11, 12 and 15
  case h_5 htop | h_6 htop | h_7 htop | h_8 htop | h_10 htop | h_19 htop | h_20 htop | h_21 htop | h_22 htop | h_25 htop
      | h_26 htop =>
    cases hi
    exact congrArg Code.thumb (thumbByte_of_fields htop)

/-- Settles O2: part by part of the decoder, the row's word has the constants the part has found and the fields it has read. -/
theorem decodeEncode : Obligations.DecodeEncode
  | .arm _, _, h => encode_decodeArm h
  | .thumb _, _, h => encode_decodeThumb h

end Sys2Proof
end

section
/-! PROOFS. Decoding the encoding of any instruction gives it back (O1). -/

namespace Sys2Proof

/-- Settles O1, layout by layout: the decoder reads back the fields of each layout's word. -/
theorem encodeDecode : Obligations.EncodeDecode := by
  intro i
  cases i
  case andImm | eorImm | subImm | rsbImm | addImm | adcImm | sbcImm | rscImm | tstImm | teqImm | cmpImm | cmnImm | orrImm
      | movImm | bicImm | mvnImm =>
    exact decodeArm_dpImmWord _ _ _ _ _ _ _ rfl
  case andShiftImm | eorShiftImm | subShiftImm | rsbShiftImm | addShiftImm | adcShiftImm | sbcShiftImm | rscShiftImm
      | tstShiftImm | teqShiftImm | cmpShiftImm | cmnShiftImm | orrShiftImm | movShiftImm | bicShiftImm | mvnShiftImm =>
    exact decodeArm_dpShiftImmWord _ _ _ _ _ _ _ _ rfl
  case andShiftReg | eorShiftReg | subShiftReg | rsbShiftReg | addShiftReg | adcShiftReg | sbcShiftReg | rscShiftReg
      | tstShiftReg | teqShiftReg | cmpShiftReg | cmnShiftReg | orrShiftReg | movShiftReg | bicShiftReg | mvnShiftReg =>
    exact decodeArm_dpShiftRegWord _ _ _ _ _ _ _ _ rfl
  case mrs spsr _ | msrReg spsr _ _ =>
    cases spsr <;> simp [encode, decode, decodeArm, decodeArmShiftImm, DpOp.ofBits, DpOp.isCompare]
  case msrImm spsr _ _ _ => cases spsr <;> simp [encode, decode, decodeArm, decodeArmDpImm, DpOp.ofBits, DpOp.isCompare]
  case bx => simp [encode, decode, decodeArm, decodeArmShiftReg, DpOp.ofBits, DpOp.isCompare]
  case mul | mla | umull | umlal | smull | smlal | swp | swpb => simp [encode, decode, decodeArm, decodeArmMultiply]
  case strhPre | strhPost | ldrhPre | ldrhPost | ldrsbPre | ldrsbPost | ldrshPre | ldrshPost =>
    simp [encode, decode, decodeArm, decodeArmHalf]
  case strImmPre | strImmPost | strtImm | ldrImmPre | ldrImmPost | ldrtImm | strbImmPre | strbImmPost | strbtImm | ldrbImmPre
      | ldrbImmPost | ldrbtImm =>
    simp [encode, decode, decodeArm, decodeArmSdtImm]
  case strRegPre | strRegPost | strtReg | ldrRegPre | ldrRegPost | ldrtReg | strbRegPre | strbRegPost | strbtReg | ldrbRegPre
      | ldrbRegPost | ldrbtReg =>
    simp [encode, decode, decodeArm, decodeArmSdtReg]
  case und => simp [encode, decode, decodeArm]
  case ldmia | stmia | ldmib | stmib | ldmda | stmda | ldmdb | stmdb => simp [encode, decode, decodeArm, decodeArmBlock]
  case b | bl | stc | ldc => simp [encode, decode, decodeArm]
  case cdp | mcr | mrc | swi => simp [encode, decode, decodeArm, decodeArmSwiCoproc]
  case tAnd | tEor | tLslReg | tLsrReg | tAsrReg | tAdc | tSbc | tRorReg | tTst | tNeg | tCmpReg | tCmn | tOrr | tMul | tBic
      | tMvn =>
    simp [encode, decode, decodeThumb, decodeThumbAlu]
  case tAddHi | tCmpHi | tMovHi | tBx => simp [encode, decode, decodeThumb, decodeThumbHi, hiReg_parts]
  case tStrReg | tStrbReg | tLdrReg | tLdrbReg | tStrhReg | tLdsbReg | tLdrhReg | tLdshReg =>
    simp [encode, decode, decodeThumb, decodeThumbRegOffset]
  case tBeq | tBne | tBcs | tBcc | tBmi | tBpl | tBvs | tBvc => simp [encode, decode, decodeThumb, decodeThumbCondLow]
  case tBhi | tBls | tBge | tBlt | tBgt | tBle | tUnd | tSwi => simp [encode, decode, decodeThumb, decodeThumbCondHigh]
  case tAdjustSp => simp [encode, decode, decodeThumb, putBit, field_put_below, field_put_above]
  case tLslImm | tLsrImm | tAsrImm | tAddReg | tSubReg | tAddImm3 | tSubImm3 | tMovImm8 | tCmpImm8 | tAddImm8 | tSubImm8 | tLdrPc
      | tStrOff | tLdrOff | tStrbOff | tLdrbOff | tStrhOff | tLdrhOff | tStrSp | tLdrSp | tAddPc | tAddSp | tPush | tPop | tStmia
      | tLdmia | tB | tBlPrefix | tBlSuffix =>
    simp [encode, decode, decodeThumb]

end Sys2Proof
end

section
/-! PROOFS. The unallocated space (O4): where each part of the decoders has no row, in the bits of the word. -/

namespace Sys2Proof

/-! ### Fields and masks, bit by bit -/

theorem bitAt_field {m n lo i : Nat} (w : BitVec m) (h : i < n) : bitAt (field w lo n) i = bitAt w (lo + i) := by
  simp [bitAt, field, h]

theorem field_eq_iff {m n : Nat} {w : BitVec m} {lo : Nat} {x : BitVec n} :
    field w lo n = x ↔ ∀ i < n, bitAt w (lo + i) = x.getLsbD i := by
  simp only [BitVec.eq_of_getLsbD_eq_iff, field, BitVec.getLsbD_extractLsb', bitAt]
  grind

theorem forall_lt_zero {p : Nat → Prop} : (∀ i < 0, p i) ↔ True := by simp

theorem and_eq_iff {m : Nat} {w mask v : BitVec m} :
    w &&& mask = v ↔ ∀ i < m, (bitAt w i && mask.getLsbD i) = v.getLsbD i := by
  simp only [BitVec.eq_of_getLsbD_eq_iff, BitVec.getLsbD_and, bitAt]

theorem field_toNat {m : Nat} (w : BitVec m) (lo n : Nat) : (field w lo n).toNat = w.toNat / 2 ^ lo % 2 ^ n := by
  simp [field, Nat.shiftRight_eq_div_pow]

theorem bitAt_eq_true_iff {m : Nat} (w : BitVec m) (i : Nat) : bitAt w i = true ↔ w.toNat / 2 ^ i % 2 = 1 := by
  simp [bitAt, BitVec.getLsbD, Nat.testBit_eq_decide_div_mod_eq]

/-! ### The parts of the ARM decoder -/

theorem DpOp.isCompare_ofBits (b : BitVec 4) : (DpOp.ofBits b).isCompare = (bitAt b 3 && !bitAt b 2) := by
  revert b
  decide

/-- The compare opcodes with S = 0: bits 24:23 = 10, bit 20 = 0. -/
theorem compare_iff (w : Word) : ((DpOp.ofBits (field w 21 4)).isCompare && !bitAt w 20) = true ↔
    bitAt w 24 = true ∧ bitAt w 23 = false ∧ bitAt w 20 = false := by
  simp [DpOp.isCompare_ofBits, bitAt_field, and_assoc]

/-- Bit 21 tells TST and CMP from TEQ and CMN. -/
theorem compare_cases {w : Word} (h : (DpOp.ofBits (field w 21 4)).isCompare = true) :
    (bitAt w 21 = false ∧ (DpOp.ofBits (field w 21 4) = .tst ∨ DpOp.ofBits (field w 21 4) = .cmp)) ∨
    (bitAt w 21 = true ∧ (DpOp.ofBits (field w 21 4) = .teq ∨ DpOp.ofBits (field w 21 4) = .cmn)) := by
  have h21 : bitAt w 21 = bitAt (DpOp.ofBits (field w 21 4)).toBits 0 := by
    rw [DpOp.toBits_ofBits, bitAt_field w (by decide)]
  rw [h21]
  rcases DpOp.isCompare_iff.mp h with hop | hop | hop | hop <;> rw [hop] <;> decide

theorem decodeArmShiftImm_eq_none {w : Word} {c : Cond} : decodeArmShiftImm w c = none ↔
    (bitAt w 24 = true ∧ bitAt w 23 = false ∧ bitAt w 20 = false) ∧
      ¬(bitAt w 21 = false ∧ field w 16 4 = 15#4 ∧ field w 0 12 = 0#12) ∧
      ¬(bitAt w 21 = true ∧ field w 12 4 = 15#4 ∧ field w 4 8 = 0#8) := by
  simp only [decodeArmShiftImm]
  split
  case isTrue hcmp =>
    rw [← compare_iff, and_iff_right hcmp]
    rcases compare_cases (Bool.and_eq_true_iff.mp hcmp).1 with ⟨h21, hop | hop⟩ | ⟨h21, hop | hop⟩
    all_goals simp [hop, h21]
  case isFalse hdp => exact iff_of_false nofun fun h => hdp ((compare_iff w).mpr h.1)

theorem decodeArmDpImm_eq_none {w : Word} {c : Cond} : decodeArmDpImm w c = none ↔
    (bitAt w 24 = true ∧ bitAt w 23 = false ∧ bitAt w 20 = false) ∧ ¬(bitAt w 21 = true ∧ field w 12 4 = 15#4) := by
  simp only [decodeArmDpImm]
  split
  case isTrue hcmp =>
    rw [← compare_iff, and_iff_right hcmp]
    rcases compare_cases (Bool.and_eq_true_iff.mp hcmp).1 with ⟨h21, hop | hop⟩ | ⟨h21, hop | hop⟩
    all_goals simp [hop, h21]
  case isFalse hdp => exact iff_of_false nofun fun h => hdp ((compare_iff w).mpr h.1)

theorem decodeArmShiftReg_eq_none {w : Word} {c : Cond} : decodeArmShiftReg w c = none ↔
    (bitAt w 24 = true ∧ bitAt w 23 = false ∧ bitAt w 20 = false) ∧
      ¬(bitAt w 22 = false ∧ bitAt w 21 = true ∧ field w 8 12 = 0xFFF#12 ∧ field w 5 2 = 0#2) := by
  simp only [decodeArmShiftReg]
  split
  case isTrue hcmp =>
    rw [← compare_iff, and_iff_right hcmp]
    obtain ⟨h24, h23, -⟩ := (compare_iff w).mp hcmp
    have hteq : DpOp.ofBits (field w 21 4) = .teq ↔ bitAt w 22 = false ∧ bitAt w 21 = true := by
      rw [DpOp.ofBits_eq_iff]
      simp only [DpOp.toBits, field_eq_iff, Nat.forall_lt_succ_right, forall_lt_zero, Nat.reduceAdd, h24, h23]
      simp [and_comm]
    simp [hteq, and_assoc]
  case isFalse hdp => exact iff_of_false nofun fun h => hdp ((compare_iff w).mpr h.1)

/-- The opcode field, as a number, from its bits. -/
theorem field_21_toNat (w : Word) : (field w 21 4).toNat =
    8 * (bitAt w 24).toNat + 4 * (bitAt w 23).toNat + 2 * (bitAt w 22).toNat + (bitAt w 21).toNat := by
  have h : ∀ b : BitVec 4,
      b.toNat = 8 * (bitAt b 3).toNat + 4 * (bitAt b 2).toNat + 2 * (bitAt b 1).toNat + (bitAt b 0).toNat := by decide
  simp [h, bitAt_field]

theorem decodeArmMultiply_eq_none {w : Word} {c : Cond} : decodeArmMultiply w c = none ↔
    (bitAt w 24 = false ∧ bitAt w 23 = false ∧ bitAt w 22 = true) ∨ (bitAt w 24 = true ∧ bitAt w 23 = true) ∨
      (bitAt w 24 = true ∧ bitAt w 23 = false ∧ ¬(bitAt w 21 = false ∧ bitAt w 20 = false ∧ field w 8 4 = 0#4)) := by
  -- the sixteen opcodes
  simp only [decodeArmMultiply, field_21_toNat]
  cases bitAt w 24 <;> cases bitAt w 23 <;> cases bitAt w 22 <;> cases bitAt w 21 <;> simp

theorem decodeArmHalf_eq_none {w : Word} {c : Cond} (hkind : field w 5 2 ≠ 0#2) : decodeArmHalf w c = none ↔
    (bitAt w 20 = false ∧ field w 5 2 ≠ 1#2) ∨ (bitAt w 24 = false ∧ bitAt w 21 = true) := by
  have hkinds : (field w 5 2).toNat = 1 ∨ (field w 5 2).toNat = 2 ∨ (field w 5 2).toNat = 3 := by
    have hne : (field w 5 2).toNat ≠ 0 := fun h => hkind (BitVec.eq_of_toNat_eq h)
    omega
  rw [ne_eq, ← BitVec.toNat_inj]
  simp only [decodeArmHalf]
  rcases hkinds with hk | hk | hk
  all_goals
    simp only [hk]
    cases bitAt w 24 <;> cases bitAt w 20 <;> simp

/-- Where the ARM decoder has no row: in each of the five parts of bits 27:25 = 000 and 001. -/
theorem decodeArm_eq_none {w : Word} : decodeArm w = none ↔
    (field w 25 3 = 0#3 ∧ bitAt w 4 = false ∧
      (bitAt w 24 = true ∧ bitAt w 23 = false ∧ bitAt w 20 = false) ∧
      ¬(bitAt w 21 = false ∧ field w 16 4 = 15#4 ∧ field w 0 12 = 0#12) ∧
      ¬(bitAt w 21 = true ∧ field w 12 4 = 15#4 ∧ field w 4 8 = 0#8)) ∨
    (field w 25 3 = 0#3 ∧ bitAt w 4 = true ∧ bitAt w 7 = false ∧
      (bitAt w 24 = true ∧ bitAt w 23 = false ∧ bitAt w 20 = false) ∧
      ¬(bitAt w 22 = false ∧ bitAt w 21 = true ∧ field w 8 12 = 0xFFF#12 ∧ field w 5 2 = 0#2)) ∨
    (field w 25 3 = 0#3 ∧ bitAt w 4 = true ∧ bitAt w 7 = true ∧ field w 5 2 = 0#2 ∧
      ((bitAt w 24 = false ∧ bitAt w 23 = false ∧ bitAt w 22 = true) ∨ (bitAt w 24 = true ∧ bitAt w 23 = true) ∨
        (bitAt w 24 = true ∧ bitAt w 23 = false ∧ ¬(bitAt w 21 = false ∧ bitAt w 20 = false ∧ field w 8 4 = 0#4)))) ∨
    (field w 25 3 = 0#3 ∧ bitAt w 4 = true ∧ bitAt w 7 = true ∧ field w 5 2 ≠ 0#2 ∧
      ((bitAt w 20 = false ∧ field w 5 2 ≠ 1#2) ∨ (bitAt w 24 = false ∧ bitAt w 21 = true))) ∨
    (field w 25 3 = 1#3 ∧
      (bitAt w 24 = true ∧ bitAt w 23 = false ∧ bitAt w 20 = false) ∧ ¬(bitAt w 21 = true ∧ field w 12 4 = 15#4)) := by
  simp only [decodeArm]
  split
  case h_1 h =>
    rw [(BitVec.toNat_eq_nat.mp h).2]
    cases bitAt w 4 with
    | false => simp [decodeArmShiftImm_eq_none]
    | true =>
      cases bitAt w 7 with
      | false => simp [decodeArmShiftReg_eq_none]
      | true =>
        by_cases hkind : field w 5 2 = 0#2
        · simp [hkind, decodeArmMultiply_eq_none]
        · simp [hkind, decodeArmHalf_eq_none hkind]
  case h_2 h => simp [(BitVec.toNat_eq_nat.mp h).2, decodeArmDpImm_eq_none]
  all_goals
    have h0 : field w 25 3 ≠ 0#3 := fun h => by simp_all
    have h1 : field w 25 3 ≠ 1#3 := fun h => by simp_all
    simp [h0, h1]

/-! ### The exact patterns of MRS, MSR register, BX and SWP (R302) -/

theorem mrs_mask_iff (w : Word) : w &&& 0x0FBF0FFF#32 = 0x010F0000#32 ↔
    field w 23 5 = 0b00010#5 ∧ field w 20 2 = 0b00#2 ∧ field w 16 4 = 15#4 ∧ field w 0 12 = 0#12 := by
  simp only [and_eq_iff, field_eq_iff, Nat.forall_lt_succ_right, forall_lt_zero, BitVec.reduceGetLsb, Nat.reduceAdd, true_and]
  grind

theorem msrReg_mask_iff (w : Word) : w &&& 0x0FB0FFF0#32 = 0x0120F000#32 ↔
    field w 23 5 = 0b00010#5 ∧ field w 20 2 = 0b10#2 ∧ field w 12 4 = 15#4 ∧ field w 4 8 = 0#8 := by
  simp only [and_eq_iff, field_eq_iff, Nat.forall_lt_succ_right, forall_lt_zero, BitVec.reduceGetLsb, Nat.reduceAdd, true_and]
  grind

theorem bx_mask_iff (w : Word) : w &&& 0x0FFFFFF0#32 = 0x012FFF10#32 ↔
    field w 23 5 = 0b00010#5 ∧ field w 20 3 = 0b010#3 ∧ field w 8 12 = 0xFFF#12 ∧ field w 4 4 = 0b0001#4 := by
  simp only [and_eq_iff, field_eq_iff, Nat.forall_lt_succ_right, forall_lt_zero, BitVec.reduceGetLsb, Nat.reduceAdd, true_and]
  grind

theorem swp_mask_iff (w : Word) : w &&& 0x0FB00FF0#32 = 0x01000090#32 ↔
    field w 23 5 = 0b00010#5 ∧ field w 20 2 = 0b00#2 ∧ field w 8 4 = 0#4 ∧ field w 4 4 = 0b1001#4 := by
  simp only [and_eq_iff, field_eq_iff, Nat.forall_lt_succ_right, forall_lt_zero, BitVec.reduceGetLsb, Nat.reduceAdd, true_and]
  grind

theorem field_4_8_eq_zero (w : Word) : field w 4 8 = 0#8 ↔ field w 4 4 = 0#4 ∧ field w 8 4 = 0#4 := by
  simp only [field_eq_iff, Nat.forall_lt_succ_right, forall_lt_zero, BitVec.reduceGetLsb, Nat.reduceAdd, true_and, and_assoc]

theorem field_0_12_eq_zero (w : Word) :
    field w 0 12 = 0#12 ↔ field w 0 4 = 0#4 ∧ field w 4 4 = 0#4 ∧ field w 8 4 = 0#4 := by
  simp only [field_eq_iff, Nat.forall_lt_succ_right, forall_lt_zero, BitVec.reduceGetLsb, Nat.reduceAdd, true_and, and_assoc]

/-- R371: the classes (a) to (g) are together the holes of the decoder's parts. -/
theorem decodeArm_eq_none_iff_classes (w : Word) : decodeArm w = none ↔
    (field w 23 5 = 0b00010#5 ∧ bitAt w 20 = false ∧ field w 4 4 ≠ 0b1011#4 ∧ field w 4 4 ≠ 0b1101#4 ∧
      field w 4 4 ≠ 0b1111#4 ∧ w &&& 0x0FBF0FFF#32 ≠ 0x010F0000#32 ∧ w &&& 0x0FB0FFF0#32 ≠ 0x0120F000#32 ∧
      w &&& 0x0FFFFFF0#32 ≠ 0x012FFF10#32 ∧ w &&& 0x0FB00FF0#32 ≠ 0x01000090#32) ∨
    (field w 23 5 = 0b00110#5 ∧ field w 20 2 = 0b00#2) ∨
    (field w 23 5 = 0b00110#5 ∧ field w 20 2 = 0b10#2 ∧ field w 12 4 ≠ 0b1111#4) ∨
    (field w 24 4 = 0b0000#4 ∧ field w 22 2 = 0b01#2 ∧ field w 4 4 = 0b1001#4) ∨
    (field w 23 5 = 0b00010#5 ∧ field w 4 4 = 0b1001#4 ∧ (field w 20 2 ≠ 0b00#2 ∨ field w 8 4 ≠ 0b0000#4)) ∨
    (field w 23 5 = 0b00011#5 ∧ field w 4 4 = 0b1001#4) ∨
    (field w 25 3 = 0b000#3 ∧ bitAt w 20 = false ∧ (field w 4 4 = 0b1101#4 ∨ field w 4 4 = 0b1111#4)) ∨
    (field w 25 3 = 0b000#3 ∧ bitAt w 24 = false ∧ bitAt w 21 = true ∧ bitAt w 7 = true ∧ bitAt w 4 = true ∧
      field w 5 2 ≠ 0b00#2) := by
  simp only [decodeArm_eq_none, ne_eq, mrs_mask_iff, msrReg_mask_iff, bx_mask_iff, swp_mask_iff, field_0_12_eq_zero,
    field_4_8_eq_zero]
  -- bits 27:20 and 7:4 decide; the fields beside them stay whole
  generalize field w 16 4 = f16, field w 12 4 = f12, field w 8 12 = fbx, field w 8 4 = f8, field w 0 4 = f0
  simp only [field_eq_iff, Nat.forall_lt_succ_right, forall_lt_zero, BitVec.reduceGetLsb, Nat.reduceAdd, true_and]
  cases bitAt w 27
  case true => simp
  cases bitAt w 26
  case true => simp
  cases bitAt w 25
  case true => grind
  case false =>
    cases bitAt w 4
    case false => grind
    case true =>
      cases bitAt w 7
      case false => grind
      case true => cases bitAt w 6 <;> grind

/-! ### The Thumb decoder -/

theorem decodeThumb_eq_none (h : Half) : decodeThumb h = none ↔
    ((field h 11 5).toNat = 8 ∧ bitAt h 10 = true ∧ (field h 8 2).toNat = 3 ∧ bitAt h 7 = true) ∨
    ((field h 11 5).toNat = 22 ∧ ¬((field h 9 2).toNat = 0 ∧ ¬bitAt h 8 = true) ∧ (field h 9 2).toNat ≠ 2) ∨
    ((field h 11 5).toNat = 23 ∧ (field h 9 2).toNat ≠ 2) ∨ (field h 11 5).toNat = 29 := by
  simp only [decodeThumb]
  split
  case h_4 htop => split <;> simp [htop]
  case h_9 htop =>
    simp only [htop, decodeThumbHi]
    split
    case isFalse h10 => simp [h10]
    case isTrue h10 =>
      split
      case h_4 =>
        have hlt := (field h 8 2).isLt
        grind
      all_goals simp_all
  case h_23 htop =>
    simp only [htop, ← BitVec.toNat_inj]
    split
    case isTrue hadjust => simp_all
    case isFalse => split <;> simp_all
  case h_24 htop => simp [htop, ← BitVec.toNat_inj]
  all_goals simp_all

theorem decodeThumb_tUnd_iff (h : Half) :
    (∃ low, decodeThumb h = some (.tUnd low)) ↔ (field h 11 5).toNat = 27 ∧ (field h 8 3).toNat = 6 := by
  constructor
  · rintro ⟨low, hlow⟩
    cases encode_decodeThumb hlow
    simp
  · rintro ⟨htop, hcond⟩
    refine ⟨field h 0 8, ?_⟩
    have hword : thumbByte 27#5 6#3 (field h 0 8) = h := (BitVec.toNat_eq_nat.mp hcond).2 ▸ thumbByte_of_fields htop
    simpa [encode, decode, hword] using encodeDecode (.tUnd (field h 0 8))

end Sys2Proof

namespace Sys2Proof.Machine

/-! ### The condition 1111, and the whole -/

/-- With the condition field 1111 an unallocated word is the case of R412. -/
theorem unallocated_nv {w : Word} (s : State) (h : field w 28 4 = 0b1111#4) :
    (s.params.arm7tdmiAlt = false → unallocated (.arm w) s = .fault (.stop (.unpredictable .nvCondition) s)) ∧
    (s.params.arm7tdmiAlt = true → unallocated (.arm w) s = .next { s with afterUserLdm := false, pc := s.pc + 4 }) := by
  have hnv : Cond.ofBits (field w 28 4) = .nv := by rw [h]; rfl
  simp only [unallocated, undefinedArm, hnv]
  exact ⟨fun halt => if_pos ⟨rfl, halt⟩, fun halt => runArm_fails rfl (.inr halt)⟩

/-- Settles O4. The ARM classes are the holes of the decoder's parts; the ranges of Thumb halfwords are the holes of formats 5,
13, 14 and 18, and UND is bits 15:8 = 0xDE. -/
theorem unallocatedSpace : Obligations.UnallocatedSpace := by
  refine ⟨decodeArm_eq_none_iff_classes, fun w s _ hnv => unallocated_nv s hnv, fun h => ?_, fun h => ?_⟩
  · simp only [decodeThumb_tUnd_iff, field_toNat, BitVec.le_def, BitVec.reduceToNat]
    have hlt := h.isLt
    omega
  · simp only [decodeThumb_eq_none, bitAt_eq_true_iff, field_toNat, BitVec.le_def, BitVec.reduceToNat]
    have hlt := h.isLt
    omega

end Sys2Proof.Machine
end

section
/-! PROOFS. An instruction whose condition fails (O7, O8): every ARM shape runs in the frame `runArm`. -/

namespace Sys2Proof.Machine

/-- A shape with a condition runs in the frame of an ARM instruction under that condition (R410). -/
theorem runShape_eq_runArm {sh : Shape} {c : Cond} (h : sh.cond? = some c) (s : State) :
    ∃ regs checks body, runShape sh s = runArm c regs checks body s := by
  cases sh <;> simp only [Shape.cond?, Option.some_inj, reduceCtorEq] at h <;> subst h <;> simp only [runShape]
  case transfer | block => split <;> exact ⟨_, _, _, rfl⟩
  all_goals exact ⟨_, _, _, rfl⟩

/-- So does an instruction with a condition. -/
theorem exec_eq_runArm {i : Instr} {c : Cond} (h : (shapeOf i).cond? = some c) (s : State) :
    ∃ regs checks body, exec i s = runArm c regs checks body s :=
  exec_eq_runShape i s ▸ runShape_eq_runArm h s

/-- The fault of the condition 1111 comes before everything else (R412). -/
theorem runArm_nv {regs : List RegNum} {checks : State → Except Fault Unit} {body : State → Except Fault State}
    {s : State} (h : s.params.arm7tdmiAlt = false) :
    runArm .nv regs checks body s = .fault (.stop (.unpredictable .nvCondition) s) :=
  if_pos ⟨rfl, h⟩

/-- Settles O7: the frame every ARM instruction runs in skips the body where the condition fails. -/
theorem failedCondition : Obligations.FailedCondition := by
  intro i c s hc hfails hnv
  obtain ⟨regs, checks, body, hrun⟩ := exec_eq_runArm hc s
  rw [hrun]
  exact runArm_fails hfails hnv

/-- Settles O8: with `arm7tdmiAlt` off the frame faults before the body; with it on the condition fails as any other does. -/
theorem nvCondition : Obligations.NvCondition := by
  refine fun s => ⟨fun i hc => ⟨fun halt => ?_, fun halt => ?_⟩, fun w hnv _ => unallocated_nv s hnv⟩
  · obtain ⟨regs, checks, body, hrun⟩ := exec_eq_runArm hc s
    rw [hrun]
    exact runArm_nv halt
  · exact failedCondition i .nv s hc (condHolds_nv s.cpsr) (.inr halt)

end Sys2Proof.Machine
end

section
/-! PROOFS. The addition and the subtraction law (O24, O25): the result against the exact signed and unsigned values. -/

namespace Sys2Proof.Machine

/-- A signed number is kept by 32 bits exactly where it is in their range. -/
theorem toInt_ofInt_ne_iff (x : Int) : (BitVec.ofInt 32 x).toInt ≠ x ↔ x < -2 ^ 31 ∨ 2 ^ 31 ≤ x := by
  have hlow := (BitVec.ofInt 32 x).le_toInt
  have hhigh := (BitVec.ofInt 32 x).toInt_lt
  constructor
  · intro hne
    by_contra hrange
    exact hne (BitVec.toInt_ofInt_eq_self (by decide) (by omega) (by omega))
  · omega

/-- The result of an addition is the exact signed sum narrowed to 32 bits (R430). -/
theorem addResult_eq_ofInt (a b : Word) (cin : Bool) :
    addResult a b cin = BitVec.ofInt 32 (a.toInt + b.toInt + cin.toNat) := by
  cases cin <;> simp [addResult, BitVec.ofInt_add]

/-- An addition overflows exactly where its signed result is not the exact signed sum (R430). -/
theorem addOverflow_eq (a b : Word) (cin : Bool) :
    addOverflow a b cin = decide ((addResult a b cin).toInt ≠ a.toInt + b.toInt + cin.toNat) := by
  rw [addOverflow, addResult_eq_ofInt, ← Bool.decide_or]
  exact decide_eq_decide.mpr (toInt_ofInt_ne_iff _).symm

/-- The result of a subtraction is the exact signed difference narrowed to 32 bits (R431). -/
theorem subResult_eq_ofInt (a b : Word) (bin : Bool) :
    subResult a b bin = BitVec.ofInt 32 (a.toInt - b.toInt - bin.toNat) := by
  rw [← addResult_not, addResult_eq_ofInt, toInt_not_eq]
  congr 1
  cases bin <;> simp <;> omega

/-- A subtraction overflows exactly where its signed result is not the exact signed difference (R431). -/
theorem subOverflow_eq (a b : Word) (bin : Bool) :
    subOverflow a b bin = decide ((subResult a b bin).toInt ≠ a.toInt - b.toInt - bin.toNat) := by
  rw [subOverflow, subResult_eq_ofInt, ← Bool.decide_or]
  exact decide_eq_decide.mpr (toInt_ofInt_ne_iff _).symm

/-- N is bit 31 of the result and Z says that it is 0 (R111, R112). -/
theorem Cpsr.setAlu_nz (p : Cpsr) (o : AluOut) :
    (p.setAlu o).n = o.r.getLsbD 31 ∧ (p.setAlu o).z = decide (o.r = 0#32) :=
  ⟨o.r.msb_eq_getLsbD_last, rfl⟩

/-- Settles O24: result and carry are the definition's own; V by the signs is where the signed sum is out of range. -/
theorem additionLaw : Obligations.AdditionLaw := by
  intro a b cin
  refine ⟨BitVec.toNat_ofNat _ _, rfl, ?_, ?_, fun p => p.setAlu_nz _⟩
  · simp only [addLaw, BitVec.msb_eq_getLsbD_last]
  · simp only [addLaw_eq, addOverflow_eq]

/-- Settles O25: result and carry are the definition's own; V by the signs is where the signed difference is out of range, as
it is for the addition of NOT b. -/
theorem subtractionLaw : Obligations.SubtractionLaw := by
  intro a b bin
  refine ⟨?_, rfl, ?_, ?_, subLaw_eq_addLaw a b bin, fun p => p.setAlu_nz _⟩
  · rw [subLaw, BitVec.toNat_ofInt]
    exact Int.toNat_of_nonneg (Int.emod_nonneg _ (by decide))
  · simp only [subLaw, BitVec.msb_eq_getLsbD_last]
  · simp only [subLaw_eq, subOverflow_eq]

end Sys2Proof.Machine
end

section
/-! PROOFS. The barrel shifter as arithmetic (O26). -/

namespace Sys2Proof.Machine

/-! ### By a register amount (R405 to R408): one shift by `k`, however large, and the last bit shifted out -/

theorem shiftByReg_zero (sh : ShiftKind) (v : Word) (c : Bool) : shiftByReg sh 0 v c = (v, c) := rfl

/-- LSL (R405): from 32 on nothing of the value is left. -/
theorem shiftByReg_lsl {k : Nat} (hk : 0 < k) (v : Word) (c : Bool) :
    shiftByReg .lsl k v c = (v <<< k, decide (k ≤ 32) && v.getLsbD (32 - k)) := by
  rcases Nat.lt_trichotomy k 32 with hlt | rfl | hgt
  · simp [shiftByReg, hk.ne', hlt, hlt.le]
  · simp [shiftByReg]
  · simp [shiftByReg, hk.ne', hgt.ne', hgt.not_gt, hgt.not_ge, BitVec.shiftLeft_eq_zero hgt.le]

/-- LSR (R406): from 32 on nothing of the value is left. -/
theorem shiftByReg_lsr {k : Nat} (hk : 0 < k) (v : Word) (c : Bool) :
    shiftByReg .lsr k v c = (v >>> k, v.getLsbD (k - 1)) := by
  rcases Nat.lt_trichotomy k 32 with hlt | rfl | hgt
  · simp [shiftByReg, hk.ne', hlt]
  · simp [shiftByReg, BitVec.ushiftRight_eq_zero, BitVec.msb_eq_getLsbD_last]
  · simp [shiftByReg, hk.ne', hgt.ne', hgt.not_gt, BitVec.ushiftRight_eq_zero hgt.le,
      BitVec.getLsbD_of_ge v (k - 1) (by omega)]

/-- ASR (R407): from 32 on 32 copies of the sign are left. -/
theorem shiftByReg_asr {k : Nat} (hk : 0 < k) (v : Word) (c : Bool) :
    shiftByReg .asr k v c = (v.sshiftRight k, v.getLsbD (min (k - 1) 31)) := by
  by_cases hin : k < 32
  · simp [shiftByReg, hk.ne', hin, show min (k - 1) 31 = k - 1 by omega]
  · have hsign : v.sshiftRight 32 = v.sshiftRight k := by
      ext i hi
      simp [BitVec.getElem_sshiftRight, show ¬ k + i < 32 by omega]
    simp [shiftByReg, hk.ne', hin, hsign, show min (k - 1) 31 = 31 by omega, BitVec.msb_eq_getLsbD_last]

/-- Bit `n` of a word rotated right by `k` is bit `n + k`, counted round. -/
theorem getLsbD_rotateRight_mod (v : Word) (k : Nat) {n : Nat} (hn : n < 32) :
    (v.rotateRight k).getLsbD n = v.getLsbD ((n + k) % 32) := by
  rw [BitVec.getLsbD_rotateRight]
  by_cases hwrap : n < 32 - k % 32
  · rw [decide_eq_true hwrap, cond_true, show (n + k) % 32 = k % 32 + n by omega]
  · rw [decide_eq_false hwrap, cond_false, decide_eq_true hn, Bool.true_and,
      show (n + k) % 32 = n - (32 - k % 32) by omega]

/-- ROR (R408): whole turns leave the value as it is. -/
theorem shiftByReg_ror {k : Nat} (hk : 0 < k) (v : Word) (c : Bool) :
    shiftByReg .ror k v c = (v.rotateRight k, v.getLsbD ((k - 1) % 32)) := by
  by_cases hturn : k % 32 = 0
  · have hwhole : v.rotateRight k = v := BitVec.eq_of_getLsbD_eq fun n hn => by
      rw [getLsbD_rotateRight_mod v k hn, show (n + k) % 32 = n by omega]
    simp [shiftByReg, hk.ne', hturn, hwhole, show (k - 1) % 32 = 31 by omega, BitVec.msb_eq_getLsbD_last]
  · simp [shiftByReg, hk.ne', hturn, BitVec.rotateRight_mod_eq_rotateRight, show (k - 1) % 32 = k % 32 - 1 by omega]

/-! ### By an immediate amount (R403), and the immediate operand (R402) -/

theorem shiftByImm_of_ne_zero {n : BitVec 5} (h : n ≠ 0#5) (sh : ShiftKind) (v : Word) (c : Bool) :
    shiftByImm sh n v c = shiftByReg sh n.toNat v c := by
  have hpos : n.toNat ≠ 0 := fun h0 => h (BitVec.eq_of_toNat_eq h0)
  have hlt : n.toNat < 32 := n.isLt
  cases sh <;> simp [shiftByImm, shiftByReg, hpos, hlt, Nat.mod_eq_of_lt hlt]

/-- RRX shifts right by 1 and puts the old C into bit 31. -/
theorem getLsbD_rrx (v : Word) (c : Bool) (j : Nat) :
    (shiftByImm .ror 0#5 v c).1.getLsbD j = (v.getLsbD (j + 1) || decide (j = 31) && c) := by
  have hbit : (putBit 32 31 c).getLsbD j = (decide (j = 31) && c) := bitAt_putBit c j (by decide)
  simp [shiftByImm, hbit, Nat.add_comm]

theorem getLsbD_shiftedImm (rot : BitVec 4) (imm : BitVec 8) (c : Bool) {n : Nat} (hn : n < 32) :
    (shiftedImm rot imm c).1.getLsbD n = imm.getLsbD ((n + 2 * rot.toNat) % 32) := by
  rw [shiftedImm, getLsbD_rotateRight_mod _ _ hn]
  simp [Nat.mod_lt]

theorem shiftedImm_carry (rot : BitVec 4) (imm : BitVec 8) (c : Bool) :
    (shiftedImm rot imm c).2 = if rot = 0#4 then c else (shiftedImm rot imm c).1.getLsbD 31 := by
  rw [← BitVec.msb_eq_getLsbD_last]
  rfl

/-! ### The operand forms -/

/-- The amount is the low byte (R404). -/
theorem shiftAmount_eq (w : Word) : shiftAmount w = w.toNat % 256 := by
  simp [shiftAmount, field_toNat]

/-- The split immediate of a halfword transfer, high nibble first (R323). -/
theorem halfOffset_imm_eval (hi lo : BitVec 4) (s : State) :
    (halfOffset true hi lo).eval s = BitVec.ofNat 32 (hi.toNat * 16 + lo.toNat) := by
  have hjoined : (hi ++ lo).toNat = hi.toNat * 16 + lo.toNat := by
    rw [BitVec.toNat_append, ← Nat.shiftLeft_add_eq_or_of_lt lo.isLt, Nat.shiftLeft_eq]
  rw [← hjoined, BitVec.ofNat_toNat]
  rfl

/-- Settles O26: by a register amount the shifter is one library shift by `k`, by an immediate it is that shift or RRX, and the
operand forms apply it to `s.x 8` and `s.x 12`, which are the two ways of reading R15. -/
theorem shifterLaws : Obligations.ShifterLaws := by
  refine ⟨fun v c k _ => ?_, fun v c n => ?_, fun rot imm c => ?_, fun s ahead8 ahead12 h8 h12 => ?_⟩
  case refine_1 =>
    obtain rfl | hk := Nat.eq_zero_or_pos k
    · simp +contextual [shiftByReg_zero, Nat.mod_eq_of_lt v.isLt, Nat.mod_eq_of_lt]
    · rw [shiftByReg_lsl hk, shiftByReg_lsr hk, shiftByReg_asr hk, shiftByReg_ror hk]
      refine ⟨?_, ?_, ?_, fun n hn => getLsbD_rotateRight_mod v k hn, fun sh => shiftByReg_zero sh v c,
        fun _ => ⟨rfl, rfl, rfl, rfl⟩⟩
      · rw [BitVec.toNat_shiftLeft, Nat.shiftLeft_eq]
      · rw [BitVec.toNat_ushiftRight, Nat.shiftRight_eq_div_pow]
      · rw [BitVec.toInt_sshiftRight, Int.shiftRight_eq_div_pow, Nat.cast_pow, Nat.cast_ofNat]
  case refine_2 =>
    refine ⟨fun hn sh => shiftByImm_of_ne_zero hn sh v c, rfl, rfl, rfl, rfl, ?_, fun j hj => ?_⟩
    · rw [getLsbD_rrx, BitVec.getLsbD_of_ge v 32 le_rfl]
      rfl
    · rw [getLsbD_rrx, decide_eq_false hj.ne, Bool.false_and, Bool.or_false]
  case refine_3 => exact ⟨fun n hn => getLsbD_shiftedImm rot imm c hn, shiftedImm_carry rot imm c⟩
  case refine_4 =>
    obtain rfl : ahead8 = s.x 8 := funext h8
    obtain rfl : ahead12 = s.x 12 := funext h12
    refine ⟨fun _ _ => rfl, fun _ _ _ => ⟨rfl, rfl⟩, fun rs sh rm => ?_, fun _ => rfl,
      fun hi lo => ⟨halfOffset_imm_eval hi lo s, rfl⟩, fun o => ?_⟩
    · rw [← shiftAmount_eq]
      rfl
    · cases o <;> rfl

end Sys2Proof.Machine
end

section
/-! PROOFS. Data processing where R15 is not written (O27): the write of the template. -/

namespace Sys2Proof.Machine

/-- Where R15 is not written, the write answers Rd (nothing for a compare), the flags with S = 1, and the pc advanced (R450). -/
theorem dpWrite_register {op : DpOp} {rd : RegNum} (hrd : rd ≠ 15#4 ∨ op.isCompare = true) (f : Bool) (out : AluOut)
    (s : State) : dpWrite op f rd out s = .ok
      { s with
        regs := if op.isCompare then s.regs else s.regs.set (physIndex s.cpsr.m rd) out.r
        cpsr := if f then s.cpsr.setAlu out else s.cpsr
        pc := s.pc + 4 } := by
  cases hop : op.isCompare with
  | true => cases f <;> simp only [dpWrite, hop] <;> rfl
  | false =>
    have hne : rd ≠ 15#4 := hrd.resolve_right (by simp [hop])
    cases f <;> simp only [dpWrite, hop, hne] <;> rfl

/-- Settles O27: the write of a register by the template, the result and the flags by exact arithmetic. -/
theorem dataProcessingResult : Obligations.DataProcessingResult := by
  intro i op c f rn rd o s hi hs hp hrd
  rw [hi] at hs hp
  rw [exec_eq_runShape, hi, runShape, dataProcessing_runs hs hp, dpWrite_register hrd, dpCompute_r,
    ← Cpsr.setAlu_dpCompute]
  rfl

end Sys2Proof.Machine
end

section
/-! PROOFS. The multiplies (O29, O30): the state each form answers, by the one write of its result,
and the exact product it writes. -/

namespace Sys2Proof.Machine

/-! ### MUL and MLA (R500 to R504), Thumb MUL (R725) -/

/-- A permitted MUL or MLA reads no R15 (R503). -/
theorem Permits.multiply_ne_pc {c : Cond} {f : Bool} {rd : RegNum} {acc : Option RegNum} {rs rm : RegNum} {s : State}
    (hp : Permits (.multiply c f rd acc rs rm) s) : rs ≠ 15#4 ∧ rm ≠ 15#4 ∧ acc ≠ some 15#4 := by
  obtain ⟨hpc, -⟩ := hp
  simp only [Shape.alwaysFaults, Bool.or_eq_false_iff, decide_eq_false_iff_not] at hpc
  obtain ⟨⟨⟨-, hrs⟩, hrm⟩, hacc⟩ := hpc
  exact ⟨hrs, hrm, hacc⟩

/-- The state a multiply answers: the product into Rd, the flags with S = 1, the pc advanced by the instruction's width. -/
def State.withProduct (s : State) (width : Word) (f : Bool) (rd : RegNum) (r : Word) : State :=
  ((if f then mulFlags r s else s).setX rd r).advance width

/-- Only Rd and the pc change, and the flags and the count of draws (R500). -/
theorem State.withProduct_eq (s : State) (width : Word) (f : Bool) (rd : RegNum) (r : Word) :
    s.withProduct width f rd r =
      { s with pc := s.pc + width, regs := s.regs.set (physIndex s.cpsr.m rd) r,
               cpsr := (s.withProduct width f rd r).cpsr, draws := (s.withProduct width f rd r).draws } := by
  cases f <;> rfl

/-- With S = 1, N and Z are the result's and C is free (R501). -/
theorem State.withProduct_flags (s : State) (width : Word) (rd : RegNum) (r : Word) :
    (s.withProduct width true rd r).cpsr =
      { s.cpsr with n := r.getLsbD 31, z := decide (r = 0#32), c := (s.withProduct width true rd r).cpsr.c } := by
  rw [← r.msb_eq_getLsbD_last]
  rfl

/-- The product of Rm and Rs, plus Rn where there is one, modulo 2^32 (R500, R502, R504). -/
def State.exactProduct (s : State) (acc : Option RegNum) (rs rm : RegNum) : Word :=
  BitVec.ofNat 32 ((s.bankReg s.cpsr.m rm).toNat * (s.bankReg s.cpsr.m rs).toNat +
    match acc with
    | some rn => (s.bankReg s.cpsr.m rn).toNat
    | none => 0)

/-- A MUL or MLA that starts and is permitted answers the exact product. -/
theorem multiply_runs {c : Cond} {f : Bool} {rd : RegNum} {acc : Option RegNum} {rs rm : RegNum} {s : State}
    (hs : Starts (.multiply c f rd acc rs rm) s) (hp : Permits (.multiply c f rd acc rs rm) s) :
    multiply c f rd acc rs rm s = .next (s.begun.withProduct 4 f rd (s.exactProduct acc rs rm)) := by
  have hchecks : mulChecks rd acc rs rm s.begun = .ok () := mulChecks_eq_ok.mpr hp
  obtain ⟨hcond, hhazard⟩ := hs.arm rfl
  obtain ⟨hrs, hrm, hacc⟩ := hp.multiply_ne_pc
  rw [multiply, runArm_runs (regs := [rd, rs, rm] ++ acc.toList) hcond hhazard, hchecks, ok_bind]
  cases acc with
  | none =>
    rw [State.exactProduct, ← s.x_of_ne 8 rs hrs, ← s.x_of_ne 8 rm hrm]
    rfl
  | some rn =>
    rw [State.exactProduct, ← s.x_of_ne 8 rs hrs, ← s.x_of_ne 8 rm hrm, ← s.x_of_ne 8 rn (by simpa using hacc)]
    rfl

/-- A Thumb MUL that is permitted answers the exact product, the flags always set (R725). -/
theorem thumbMultiply_runs {rs rd : LowReg} {s : State} (hp : Permits (.tMul rs rd) s) :
    thumbMultiply rs rd s = .next (s.begun.withProduct 2 true rd.num
      (BitVec.ofNat 32 ((s.bankReg s.cpsr.m rd.num).toNat * (s.bankReg s.cpsr.m rs.num).toNat))) := by
  have hcheck : checkAlt (rd = rs) .mulRdEqRm s.begun = .ok () := checkAlt_ok hp.2
  rw [thumbMultiply, runThumb_runs, hcheck, ← s.lo_eq rd, ← s.lo_eq rs]
  rfl

/-- Settles O29: the ARM and the Thumb form answer one and the same write of a product. -/
theorem multiplyResult : Obligations.MultiplyResult := by
  refine ⟨fun i c f rd acc rs rm s r hi hs hp hr => ?_, fun rs rd s r hp hr => ?_⟩
  · rw [hi] at hs hp
    obtain rfl : r = s.exactProduct acc rs rm := hr
    rw [exec_eq_runShape, hi, runShape, multiply_runs hs hp]
    refine ⟨_, rfl, s.begun.withProduct_eq 4 f rd _, ?_, ?_⟩
    · rintro rfl
      rfl
    · rintro rfl
      exact s.begun.withProduct_flags 4 rd _
  · rw [exec_eq_runShape, shapeOf, runShape, thumbMultiply_runs hp, ← hr]
    exact ⟨_, rfl, s.begun.withProduct_eq 2 true rd.num r, s.begun.withProduct_flags 2 rd.num r⟩

/-! ### The long multiplies (R510 to R514) -/

/-- A permitted long multiply has two different destinations and names no R15 (R515). -/
theorem Permits.longMultiply_ne {sg acc : Bool} {c : Cond} {f : Bool} {rdHi rdLo rs rm : RegNum} {s : State}
    (hp : Permits (.longMultiply sg acc c f rdHi rdLo rs rm) s) :
    rdHi ≠ rdLo ∧ rdHi ≠ 15#4 ∧ rdLo ≠ 15#4 ∧ rs ≠ 15#4 ∧ rm ≠ 15#4 := by
  obtain ⟨hpc, -⟩ := hp
  simpa only [Shape.alwaysFaults, Bool.or_eq_false_iff, decide_eq_false_iff_not, and_assoc] using hpc

/-- Two words side by side are their value as a 64-bit integer. -/
theorem ofNat_joined (hi lo : Word) : BitVec.ofNat 64 (hi.toNat * 2 ^ 32 + lo.toNat) = hi ++ lo := by
  rw [← Nat.shiftLeft_eq, Nat.shiftLeft_add_eq_or_of_lt lo.isLt, ← BitVec.toNat_append]
  exact BitVec.ofNat_toNat ..

/-- The exact integer result, narrowed to 64 bits, is the 64-bit product of the extended operands plus the accumulator. -/
theorem longProduct_eq (sg acc : Bool) (m r hi lo : Word) : longProduct sg acc m r hi lo =
    (if sg then m.signExtend 64 * r.signExtend 64 else m.setWidth 64 * r.setWidth 64) +
      (if acc then hi ++ lo else 0#64) := by
  rw [longProduct, BitVec.ofInt_add]
  congr 1
  · cases sg with
    | false =>
      rw [← BitVec.ofNat_toNat, ← BitVec.ofNat_toNat]
      exact BitVec.ofInt_mul ..
    | true => exact BitVec.ofInt_mul ..
  · cases acc with
    | false => rfl
    | true => exact (BitVec.ofInt_natCast ..).trans (ofNat_joined hi lo)

/-- The state a long multiply answers: the halves of the result into RdHi and RdLo, the flags with S = 1, the pc advanced. -/
def State.withLongProduct (s : State) (f : Bool) (rdHi rdLo : RegNum) (r : BitVec 64) : State :=
  (((if f then longFlags r s else s).setX rdLo (r.extractLsb' 0 32)).setX rdHi (r.extractLsb' 32 32)).advance 4

/-- Only the registers and the pc change, and the flags and the count of draws (R510). -/
theorem State.withLongProduct_eq (s : State) (f : Bool) (rdHi rdLo : RegNum) (r : BitVec 64) :
    s.withLongProduct f rdHi rdLo r =
      { s with pc := s.pc + 4, regs := (s.withLongProduct f rdHi rdLo r).regs,
               cpsr := (s.withLongProduct f rdHi rdLo r).cpsr, draws := (s.withLongProduct f rdHi rdLo r).draws } := by
  cases f <;> rfl

/-- With S = 1, N and Z are the 64-bit result's, C and V free (R510). -/
theorem State.withLongProduct_flags (s : State) (rdHi rdLo : RegNum) (r : BitVec 64) :
    (s.withLongProduct true rdHi rdLo r).cpsr =
      { s.cpsr with n := r.getLsbD 63, z := decide (r = 0#64), c := (s.withLongProduct true rdHi rdLo r).cpsr.c,
                    v := (s.withLongProduct true rdHi rdLo r).cpsr.v } := by
  rw [← r.msb_eq_getLsbD_last]
  rfl

/-- The registers after a long multiply, in every bank. -/
theorem State.withLongProduct_bankReg (s : State) (f : Bool) (rdHi rdLo : RegNum) (r : BitVec 64) (m : Mode) (j : RegNum) :
    (s.withLongProduct f rdHi rdLo r).bankReg m j =
      if physIndex s.cpsr.m rdHi = physIndex m j then r.extractLsb' 32 32
      else if physIndex s.cpsr.m rdLo = physIndex m j then r.extractLsb' 0 32
      else s.bankReg m j := by
  rw [State.withLongProduct, State.advance_bankReg, State.setX, State.bankReg_setBankReg, State.setX,
    State.bankReg_setBankReg]
  cases f <;> rfl

/-- A long multiply that starts and is permitted answers its exact result (R511 to R514). -/
theorem longMultiply_runs {sg acc : Bool} {c : Cond} {f : Bool} {rdHi rdLo rs rm : RegNum} {s : State}
    (hs : Starts (.longMultiply sg acc c f rdHi rdLo rs rm) s) (hp : Permits (.longMultiply sg acc c f rdHi rdLo rs rm) s) :
    longMultiply sg acc c f rdHi rdLo rs rm s = .next (s.begun.withLongProduct f rdHi rdLo
      (longProduct sg acc (s.bankReg s.cpsr.m rm) (s.bankReg s.cpsr.m rs) (s.bankReg s.cpsr.m rdHi)
        (s.bankReg s.cpsr.m rdLo))) := by
  have hchecks : longChecks rdHi rdLo rs rm s.begun = .ok () := longChecks_eq_ok.mpr hp
  obtain ⟨hcond, hhazard⟩ := hs.arm rfl
  obtain ⟨-, hhi, hlo, hrs, hrm⟩ := hp.longMultiply_ne
  rw [longMultiply, runArm_runs (regs := [rdHi, rdLo, rs, rm]) hcond hhazard, hchecks, ok_bind, ← s.x_of_ne 8 rm hrm,
    ← s.x_of_ne 8 rs hrs, ← s.x_of_ne 8 rdHi hhi, ← s.x_of_ne 8 rdLo hlo]
  rfl

/-- Settles O30: the two destinations are different physical registers, so they hold the two halves of the result. -/
theorem longMultiplyResult : Obligations.LongMultiplyResult := by
  intro i sg acc c f rdHi rdLo rs rm s r hi hs hp hr
  rw [hi] at hs hp
  obtain ⟨hne, hhi, hlo, -, -⟩ := hp.longMultiply_ne
  have hplaces : physIndex s.cpsr.m rdHi ≠ physIndex s.cpsr.m rdLo := fun h =>
    hne ((physIndex_inj _ _ _ _ hhi hlo).mp h).1
  rw [exec_eq_runShape, hi, runShape, longMultiply_runs hs hp, longProduct_eq, ← hr]
  refine ⟨_, rfl, s.begun.withLongProduct_eq f rdHi rdLo r, ?_, fun m j _ hjHi hjLo => ?_, ?_, ?_⟩
  · rw [State.withLongProduct_bankReg, State.withLongProduct_bankReg]
    simp only [State.begun_cpsr, if_true, if_neg hplaces]
    exact BitVec.extractLsb'_append_extractLsb'
  · rw [State.withLongProduct_bankReg, State.begun_cpsr, if_neg hjHi.symm, if_neg hjLo.symm, State.begun_bankReg]
  · rintro rfl
    rfl
  · rintro rfl
    exact s.begun.withLongProduct_flags rdHi rdLo r

end Sys2Proof.Machine
end

section
/-! PROOFS. The undefined instructions and SWI (O6, O19, O20): the exception entry in full, the fault, the service. -/

namespace Sys2Proof.Machine

/-- An ARM instruction that starts and whose checks pass runs its body. -/
theorem Starts.runs {sh : Shape} {c : Cond} {regs : List RegNum} {checks : State → Except Fault Unit}
    {body : State → Except Fault State} {s : State} (hs : Starts sh s) (hc : sh.cond? = some c) (hregs : sh.regs = regs)
    (hchecks : checks s.begun = .ok ()) : runArm c regs checks body s = settleFrom s (body s.begun) := by
  obtain ⟨hcond, hhazard⟩ := hs.arm hc
  rw [runArm_runs hcond (hregs ▸ hhazard), hchecks, ok_bind]

/-! ### The undefined instruction (R586, R907) -/

theorem undefined_trap {s : State} (h : s.params.undefPolicy = .trap) (bits w : Word) :
    undefined bits w s = .ok (takeException .undefined (s.pc + w) s) := by
  simp only [undefined, h]

theorem undefined_fault {s : State} (h : s.params.undefPolicy = .fault) (bits w : Word) :
    undefined bits w s = .error (.stop (.undefinedInstruction bits) s) := by
  simp only [undefined, h]

/-- An undefined word touches no register: where its condition passes it is no hazard (R972). -/
theorem undefinedArm_runs {c : Cond} {s : State} (hc : condHolds c s.cpsr = true) (w : Word) :
    undefinedArm c w s = settleFrom s (undefined w 4 s.begun) := by
  rw [undefinedArm, runArm_runs hc (.inr (by simp))]
  rfl

theorem settleFrom_undefined_trap {s : State} (h : s.params.undefPolicy = .trap) (bits w : Word) :
    settleFrom s (undefined bits w s.begun) = .next (takeException .undefined (s.pc + w) s.begun) := by
  rw [undefined_trap (s := s.begun) h]
  rfl

/-- The fault leaves the state the instruction found (R900, R907). -/
theorem settleFrom_undefined_fault {s : State} (h : s.params.undefPolicy = .fault) (bits w : Word) :
    settleFrom s (undefined bits w s.begun) = .fault (.stop (.undefinedInstruction bits) s) := by
  rw [undefined_fault (s := s.begun) h]
  rfl

/-- Settles O6: a word with no row runs `undefined` in the frame of its instruction set. -/
theorem unallocatedIsUndefined : Obligations.UnallocatedIsUndefined := by
  refine fun s => ⟨fun w hc => ?_, fun h => ?_⟩
  · rw [unallocated, undefinedArm_runs hc]
    exact ⟨fun h => settleFrom_undefined_trap h w 4, fun h => settleFrom_undefined_fault h w 4⟩
  · rw [unallocated, runThumb_runs]
    exact ⟨fun hp => settleFrom_undefined_trap hp _ 2, fun hp => settleFrom_undefined_fault hp _ 2⟩

/-! ### Exception entry (R920) -/

/-- The entry in full, of an exception that leaves F alone (R920). -/
theorem takeException_eq {e : Exc} (he : e ≠ .fiq) (lr : Word) (s : State) : takeException e lr s =
    { s with
      regs := s.regs.set (physIndex e.mode 14#4) lr
      spsr := s.spsr.set e.mode s.cpsr.pack
      cpsr := { s.cpsr with m := e.mode, t := false, i := true }
      stale := []
      pc := e.vector } := by
  have hf : (s.cpsr.f || e == .fiq) = s.cpsr.f := by simp [he]
  rw [takeException, hf]
  rfl

/-- The word an undefined instruction's shape names is the instruction's encoding (R580, R585). -/
theorem encode_of_undefArm {i : Instr} {c : Cond} {w : Word} (h : shapeOf i = .undefArm c w) : encode i = .arm w := by
  cases i <;> cases h <;> rfl

/-- So is the word the Thumb UND names, widened to 32 bits (R786). -/
theorem encode_of_tUnd {i : Instr} {low : BitVec 8} (h : shapeOf i = .tUnd low) :
    ∃ half, encode i = .thumb half ∧ half.setWidth 32 = 0xDE00#32 ||| low.setWidth 32 := by
  cases i <;> cases h
  exact ⟨_, rfl, by simp [thumbByte, put, BitVec.setWidth_or]⟩

/-- Settles O20: an undefined instruction runs `undefined` with its own word; the exception is the entry in full. -/
theorem undefinedTraps : Obligations.UndefinedTraps := by
  intro i s hs
  have hruns : ∀ c n, shapeOf i = .undefArm c n → exec i s = settleFrom s (undefined n 4 s.begun) := fun c n hi => by
    rw [exec_eq_runShape, hi, runShape, undefinedArm_runs (hs.1 c (by rw [hi]; rfl))]
  have hthumb : ∀ low, shapeOf i = .tUnd low →
      exec i s = settleFrom s (undefined (0xDE00#32 ||| low.setWidth 32) 2 s.begun) := fun low hi => by
    rw [exec_eq_runShape, hi, runShape, runThumb_runs]
  refine ⟨?_, fun c n hi hp => ⟨?_, encode_of_undefArm hi⟩, fun low hi hp => ?_⟩
  · rintro w (⟨c, n, hi, rfl⟩ | ⟨n, hi, rfl⟩) hp
    · rw [hruns c n hi, settleFrom_undefined_trap hp, takeException_eq (by decide)]
      rfl
    · rw [hthumb n hi, settleFrom_undefined_trap hp, takeException_eq (by decide)]
      rfl
  · rw [hruns c n hi, settleFrom_undefined_fault hp]
  · obtain ⟨half, henc, hbits⟩ := encode_of_tUnd hi
    exact ⟨half, henc, by rw [hthumb low hi, settleFrom_undefined_fault hp, hbits]⟩

/-! ### SWI (R570, R787, R908, R915) -/

theorem setIfSome_swiCalls (s : State) (i : RegNum) (v : Option Word) : (setIfSome s i v).swiCalls = s.swiCalls := by
  cases v <;> rfl

/-- A script calls no service. -/
theorem runScript_swiCalls {x : SwiScript} {s t : State} (h : runScript x s = .ok t) : t.swiCalls = s.swiCalls := by
  obtain ⟨s1, h1, h⟩ := bind_eq_ok.mp h
  cases h
  obtain ⟨-, -, -, -, -, -, -, -, -, -, hcalls, -, -⟩ := (swiAccesses_rel h1).fields
  simp only [setIfSome_swiCalls, hcalls]

/-- A register of any bank that is none of the current R0 to R3 is after a script as before (R915). -/
theorem runScript_bankReg {x : SwiScript} {s t : State} (h : runScript x s = .ok t) {m : Mode} {j : RegNum}
    (hj : ∀ k < 4, physIndex m j ≠ physIndex s.cpsr.m (BitVec.ofNat 4 k)) : t.bankReg m j = s.bankReg m j := by
  refine runScript_kept h (physIndex m j) ?_
  simpa using ⟨hj 0 (by decide), hj 1 (by decide), hj 2 (by decide), hj 3 (by decide)⟩

/-- SWI that starts runs in the frame of its instruction set, with its own width and call. -/
theorem exec_swi {i : Instr} {s : State} {w : Word} {call : SwiCall} (hs : Starts (shapeOf i) s)
    (hi : (∃ c n, shapeOf i = .swi c n ∧ w = 4#32 ∧ call = .swi32 n) ∨
      (∃ n, shapeOf i = .tSwi n ∧ w = 2#32 ∧ call = .swi n)) :
    exec i s = settleFrom s (softwareInterrupt call w s.begun) := by
  rw [exec_eq_runShape]
  obtain ⟨c, n, hi, rfl, rfl⟩ | ⟨n, hi, rfl, rfl⟩ := hi
  · rw [hi] at hs ⊢
    exact hs.runs rfl rfl rfl
  · rw [hi]
    rfl

/-- Settles O19: the trap is the exception entry in full; the service is the script's run, whose frame is `runScript_rel`. -/
theorem swiResult : Obligations.SwiResult := by
  intro i s w call hs hi
  rw [exec_swi hs hi]
  refine ⟨fun htrap => ?_, fun hext => ?_⟩
  · simp only [softwareInterrupt, State.begun_params, htrap]
    rw [takeException_eq (by decide)]
    rfl
  · simp only [softwareInterrupt, State.begun_params, hext]
    split
    next u hscript =>
      obtain ⟨-, hpc, hcpsr, hspsr⟩ := runScript_rel hscript
      have hservice : swiService call s.begun = .ok u := hscript
      refine ⟨?_, hcpsr, hspsr, runScript_swiCalls hscript, fun m j _ => runScript_bankReg hscript⟩
      rw [hservice, ok_bind, State.advance, hpc]
      rfl
    next r u hscript =>
      have hservice : swiService call s.begun = .error (.stop r u) := hscript
      rw [hservice]
      rfl

end Sys2Proof.Machine
end

section
/-! PROOFS. Branches (O31, O32): the state each form answers, the offset as a signed number. -/

namespace Sys2Proof.Machine

/-- A branch offset shifted left is the signed offset times a power of two, narrowed to 32 bits (R325, R341). -/
theorem signExtend_shiftLeft {n : Nat} (off : BitVec n) (k : Nat) :
    off.signExtend 32 <<< k = BitVec.ofInt 32 (off.toInt * (2 ^ k : Nat)) := by
  have hpow : BitVec.twoPow 32 k = BitVec.ofNat 32 (2 ^ k) := BitVec.eq_of_toNat_eq (by simp)
  rw [BitVec.shiftLeft_eq_mul_twoPow, BitVec.ofInt_mul, BitVec.ofInt_natCast, hpow]
  rfl

theorem branchTarget_eq (off : BitVec 24) (s : State) :
    branchTarget off s = s.pc + 8 + BitVec.ofInt 32 (off.toInt * 4) := by
  rw [branchTarget, signExtend_shiftLeft]
  rfl

/-- B and BL that start (R550, R551). -/
theorem branch_runs {c : Cond} {link : Bool} {off : BitVec 24} {s : State} (hs : Starts (.branch c link off) s) :
    branch c link off s = .next
      { s with
        afterUserLdm := false
        stale := []
        regs := if link then s.regs.set (physIndex s.cpsr.m 14#4) (s.pc + 4) else s.regs
        pc := s.pc + 8 + BitVec.ofInt 32 (off.toInt * 4) } := by
  refine (hs.runs rfl rfl rfl).trans ?_
  simp only [branchTarget_eq]
  cases link <;> rfl

/-- A conditional Thumb branch (R785). -/
theorem thumbBranchIf_runs (c : Cond) (off : BitVec 8) (s : State) : thumbBranchIf c off s = .next
      { s with
        afterUserLdm := false
        stale := if condHolds c s.cpsr then [] else s.stale
        pc := if condHolds c s.cpsr then s.pc + 4 + BitVec.ofInt 32 (off.toInt * 2) else s.pc + 2 } := by
  rw [thumbBranchIf, runThumb_runs, signExtend_shiftLeft]
  cases hc : condHolds c s.cpsr <;> simp only [State.begun_cpsr, hc] <;> rfl

/-- Thumb B (R788). -/
theorem thumbBranch_runs (off : BitVec 11) (s : State) : thumbBranch off s = .next
      { s with afterUserLdm := false, stale := [], pc := s.pc + 4 + BitVec.ofInt 32 (off.toInt * 2) } := by
  rw [thumbBranch, runThumb_runs, signExtend_shiftLeft]
  rfl

/-- Settles O31: each form by its shape. -/
theorem branchResult : Obligations.BranchResult := by
  intro i s
  rw [exec_eq_runShape]
  refine ⟨fun c link off hi hs => ?_, fun c off hi => ?_, fun off hi => ?_⟩
  · rw [hi] at hs ⊢
    exact branch_runs hs
  · rw [hi]
    exact thumbBranchIf_runs c off s
  · rw [hi]
    exact thumbBranch_runs off s

/-! ### BX (R555, R556, R735) -/

/-- The exchange in full, where an ARM target may be written (R107). -/
theorem exchange_ok {v : Word} {s : State} (h : v.getLsbD 0 = false → TargetOk v s) : exchange v s = .ok
    { s with stale := [], cpsr := { s.cpsr with t := v.getLsbD 0 }, pc := alignTarget (v.getLsbD 0) v } :=
  branchByT_ok (s := { s with cpsr := { s.cpsr with t := v.getLsbD 0 } }) h

/-- BX of either set that starts is the exchange of its register's value. -/
theorem exec_bx {i : Instr} {rm : RegNum} {ahead : Word} {s : State} (hs : Starts (shapeOf i) s)
    (hi : (∃ c, shapeOf i = .bx c rm ∧ ahead = 8#32) ∨ (shapeOf i = .tBx rm ∧ ahead = 4#32)) :
    exec i s = settleFrom s (exchange (s.x ahead rm) s.begun) := by
  rw [exec_eq_runShape]
  obtain ⟨c, hi, rfl⟩ | ⟨hi, rfl⟩ := hi
  · rw [hi] at hs ⊢
    exact hs.runs rfl rfl rfl
  · rw [hi]
    rfl

/-- Settles O32: both forms are one exchange. -/
theorem exchangeResult : Obligations.ExchangeResult := by
  intro i rm ahead s hi hs htarget
  rw [exec_bx hs hi, exchange_ok (s := s.begun) htarget]
  rfl

end Sys2Proof.Machine
end

section
/-! PROOFS. MRS and MSR (O22, O23): the bytes a field mask selects, the SPSR of a mode, the writes by privilege. -/

namespace Sys2Proof.Machine

/-! ### The bytes of the field mask (R565) -/

theorem getLsbD_maskByte (b : Bool) (k : Nat) :
    (if b then 0xFF#8 else 0#8).getLsbD k = (decide (k < 8) && b) := by
  cases b with
  | true => exact (BitVec.getLsbD_allOnes (v := 8)).trans (Bool.and_true _).symm
  | false => simp

/-- Bit `i` of a word lies in byte `i / 8`. -/
theorem bitAt_byteMask (mask : BitVec 4) {i : Nat} (hi : i < 32) : bitAt (byteMask mask) i = mask.getLsbD (i / 8) := by
  simp only [byteMask, bitAt_or, bitAt_put, Nat.reduceAdd, Nat.reduceLeDiff, getLsbD_maskByte]
  interval_cases i <;> simp [bitAt]

theorem bitAt_mergeBytes (mask : BitVec 4) (old new : Word) {i : Nat} (hi : i < 32) :
    bitAt (mergeBytes mask old new) i = if mask.getLsbD (i / 8) then bitAt new i else bitAt old i := by
  have hbit := bitAt_byteMask mask hi
  simp only [bitAt] at hbit
  simp only [mergeBytes, bitAt, BitVec.getLsbD_or, BitVec.getLsbD_and, BitVec.getLsbD_not, hbit, hi]
  cases mask.getLsbD (i / 8) <;> simp

theorem field_mergeBytes (mask : BitVec 4) (old new : Word) {lo n b : Nat} (hlo : 8 * b ≤ lo) (hhi : lo + n ≤ 8 * b + 8)
    (hb : b < 4) : field (mergeBytes mask old new) lo n = if mask.getLsbD b then field new lo n else field old lo n := by
  refine BitVec.eq_of_getLsbD_eq fun k hk => ?_
  have hbyte : (lo + k) / 8 = b := by omega
  have hbit := bitAt_mergeBytes mask old new (i := lo + k) (by omega)
  rw [hbyte, ← bitAt_field _ hk, ← bitAt_field _ hk, ← bitAt_field _ hk] at hbit
  rw [← bitAt, hbit]
  split <;> rfl

/-! ### The SPSRs by mode (R120) -/

theorem Spsrs.get_set_same {x : Spsrs} {m : Mode} {old : Word} (h : x.get m = some old) (w : Word) :
    (x.set m w).get m = some w := by
  cases m with
  | usr | sys => cases h
  | fiq | irq | svc | abt | und => rfl

theorem Spsrs.get_set_of_ne {m m' : Mode} (h : m' ≠ m) (x : Spsrs) (w : Word) : (x.set m w).get m' = x.get m' := by
  cases m <;> cases m' <;> simp_all [Spsrs.get, Spsrs.set]

theorem Spsrs.hasSpsr_of_get_eq_none {x : Spsrs} {m : Mode} (h : x.get m = none) : m.hasSpsr = false := by
  cases m with
  | usr | sys => rfl
  | fiq | irq | svc | abt | und => cases h

/-- Where the current mode has no SPSR, a permitted MRS or MSR of it takes the alternative (R121). -/
theorem noSpsr_ok {s : State} (h : s.params.arm7tdmiAlt = true ∨ s.cpsr.m.hasSpsr = true) (hno : s.spsrNow = none) :
    unpredictable .noSpsr s = .ok () := by
  have halt := h.resolve_right (ne_true_of_eq_false (Spsrs.hasSpsr_of_get_eq_none hno))
  rw [unpredictable, if_pos halt]

/-! ### MRS (R560) -/

theorem statusValue_ok {spsr : Bool} {s : State} (h : s.params.arm7tdmiAlt = true ∨ (spsr && !s.cpsr.m.hasSpsr) = false) :
    statusValue spsr s = .ok (if spsr then s.spsrNow.getD s.cpsr.pack else s.cpsr.pack) := by
  cases spsr with
  | false => rfl
  | true =>
    cases hnow : s.spsrNow with
    | some w => simp only [statusValue, hnow, if_true, Option.getD_some]
    | none =>
      have halt : unpredictable .noSpsr s = .ok () := noSpsr_ok (by simpa using h) hnow
      simp only [statusValue, hnow, halt, if_true, ok_bind, pure_eq_ok, Option.getD_none]

theorem moveFromStatus_runs {c : Cond} {spsr : Bool} {rd : RegNum} {s : State} (hs : Starts (.mrs c spsr rd) s)
    (hp : Permits (.mrs c spsr rd) s) : moveFromStatus c spsr rd s = .next
      ((s.begun.setX rd (if spsr then s.spsrNow.getD s.cpsr.pack else s.cpsr.pack)).advance 4) := by
  refine (hs.runs rfl rfl (checkNever_eq_ok.mpr hp.1)).trans ?_
  rw [statusValue_ok (s := s.begun) hp.2]
  rfl

/-! ### MSR to the SPSR (R565, R566) -/

/-- MSR that starts and is permitted writes the status register it names. -/
theorem moveToStatus_runs {c : Cond} {spsr : Bool} {mask : BitVec 4} {o : Operand2} {s : State}
    (hs : Starts (.msr c spsr mask o) s) (hp : Permits (.msr c spsr mask o) s) : moveToStatus c spsr mask o s =
      settleFrom s ((if spsr then writeSpsr mask (o.eval s).1 s.begun else writeCpsr mask (o.eval s).1 s.begun) >>=
        fun t => .ok (t.advance 4)) := by
  refine (hs.runs rfl rfl (checkNever_eq_ok.mpr hp.1)).trans ?_
  rw [Operand2.eval_begun]
  cases spsr <;> rfl

theorem writeSpsr_some {mask : BitVec 4} {v w : Word} {s : State} (h : s.spsrNow = some w) :
    writeSpsr mask v s = .ok { s with spsr := s.spsr.set s.cpsr.m (mergeBytes mask w v) } := by
  simp only [writeSpsr, h]

theorem writeSpsr_none {mask : BitVec 4} {v : Word} {s : State} (h : s.spsrNow = none)
    (halt : unpredictable .noSpsr s = .ok ()) : writeSpsr mask v s = .ok s := by
  simp only [writeSpsr, h, halt, ok_bind, pure_eq_ok]

/-- Settles O22: MRS reads by `statusValue`; MSR writes nothing where there is no SPSR, else its selected bytes. -/
theorem savedStatusResult : Obligations.SavedStatusResult := by
  refine ⟨fun c spsr rd s hs hp => ?_, fun i c mask o s hi hs hp => ?_⟩
  · rw [exec_eq_runShape, shapeOf, runShape, moveFromStatus_runs hs hp]
    rfl
  · rw [hi] at hs hp
    rw [exec_eq_runShape, hi, runShape, moveToStatus_runs hs hp, if_pos rfl]
    cases hnow : s.spsrNow with
    | none =>
      have hmode : s.params.arm7tdmiAlt = true ∨ s.cpsr.m.hasSpsr = true := by simpa [Shape.altCase] using hp.2
      rw [writeSpsr_none (s := s.begun) hnow (noSpsr_ok hmode hnow)]
      exact ⟨_, rfl, rfl, fun _ _ => rfl, fun _ => rfl, nofun⟩
    | some w =>
      rw [writeSpsr_some (s := s.begun) hnow]
      refine ⟨_, rfl, rfl, fun m hm => Spsrs.get_set_of_ne hm _ _, nofun, ?_⟩
      intro w' hw
      cases hw
      exact ⟨_, Spsrs.get_set_same hnow _, fun n hn => field_mergeBytes mask w _ le_rfl le_rfl hn⟩

/-! ### MSR to the CPSR (R565 to R567) -/

/-- The f byte of an MSR: N, Z, C, V where the mask selects it. -/
def Cpsr.withFlagByte (mask : BitVec 4) (v : Word) (p : Cpsr) : Cpsr :=
  { p with
    n := if mask.getLsbD 3 then v.getLsbD 31 else p.n
    z := if mask.getLsbD 3 then v.getLsbD 30 else p.z
    c := if mask.getLsbD 3 then v.getLsbD 29 else p.c
    v := if mask.getLsbD 3 then v.getLsbD 28 else p.v }

/-- The four flags of the merged word are the f byte's. -/
theorem Cpsr.flags_mergeBytes (mask : BitVec 4) (v : Word) (p : Cpsr) :
    bitAt (mergeBytes mask p.pack v) 31 = (p.withFlagByte mask v).n ∧
    bitAt (mergeBytes mask p.pack v) 30 = (p.withFlagByte mask v).z ∧
    bitAt (mergeBytes mask p.pack v) 29 = (p.withFlagByte mask v).c ∧
    bitAt (mergeBytes mask p.pack v) 28 = (p.withFlagByte mask v).v := by
  obtain ⟨hn, hz, hc, hv, -, -, -⟩ := p.flags_pack
  rw [bitAt_mergeBytes _ _ _ (by decide), bitAt_mergeBytes _ _ _ (by decide), bitAt_mergeBytes _ _ _ (by decide),
    bitAt_mergeBytes _ _ _ (by decide), hn, hz, hc, hv]
  exact ⟨rfl, rfl, rfl, rfl⟩

/-- In User mode the mask is cut to the f byte, whose bit it keeps (R567). -/
theorem Cpsr.withFlagByte_cut (mask : BitVec 4) (v : Word) (p : Cpsr) :
    p.withFlagByte (mask &&& 0b1000#4) v = p.withFlagByte mask v := by
  simp [Cpsr.withFlagByte]

/-- In User mode, and without the c byte in any mode, MSR writes the f byte alone (R567). -/
theorem writeCpsr_flagByte {mask : BitVec 4} {v : Word} {s : State} (h : ¬(s.cpsr.m ≠ .usr ∧ mask.getLsbD 0 = true)) :
    writeCpsr mask v s = .ok { s with cpsr := s.cpsr.withFlagByte mask v } := by
  by_cases hm : s.cpsr.m = .usr
  · have hcut : bitAt (mask &&& 0b1000#4) 0 = false := by simp [bitAt]
    obtain ⟨hn, hz, hc, hv⟩ := s.cpsr.flags_mergeBytes (mask &&& 0b1000#4) v
    simp only [Cpsr.withFlagByte_cut] at hn hz hc hv
    simp only [writeCpsr, if_pos hm, hcut, hn, hz, hc, hv]
    rfl
  · have hno : bitAt mask 0 = false := Bool.eq_false_of_not_eq_true fun h0 => h ⟨hm, h0⟩
    obtain ⟨hn, hz, hc, hv⟩ := s.cpsr.flags_mergeBytes mask v
    simp only [writeCpsr, if_neg hm, hno, hn, hz, hc, hv]
    rfl

theorem modeOfWord_congr {v w : Word} (h : field v 0 5 = field w 0 5) : modeOfWord v = modeOfWord w := by
  simp only [modeOfWord, h]

/-- The c byte in a privileged mode: T is checked, then the mode (R565, R567). -/
theorem writeCpsr_controlByte {mask : BitVec 4} {v : Word} {s : State} (hm : s.cpsr.m ≠ .usr)
    (h0 : mask.getLsbD 0 = true) : writeCpsr mask v s = (do
      checkNever (v.getLsbD 5 != s.cpsr.t) .msrChangesT s
      let m ← stopAt s (modeOfWord v)
      .ok { s with cpsr := { s.cpsr.withFlagByte mask v with i := v.getLsbD 7, f := v.getLsbD 6, m := m } }) := by
  have hbyte : bitAt mask 0 = true := h0
  have hbit : ∀ i < 8, bitAt (mergeBytes mask s.cpsr.pack v) i = v.getLsbD i := fun i hi => by
    rw [bitAt_mergeBytes _ _ _ (by omega), Nat.div_eq_of_lt hi, if_pos h0]
    rfl
  have hmode : modeOfWord (mergeBytes mask s.cpsr.pack v) = modeOfWord v :=
    modeOfWord_congr ((field_mergeBytes mask _ v (b := 0) (by decide) (by decide) (by decide)).trans (if_pos h0))
  obtain ⟨hn, hz, hcarry, hv⟩ := s.cpsr.flags_mergeBytes mask v
  simp only [writeCpsr, if_neg hm, hbyte, if_true, hmode, hn, hz, hcarry, hv, hbit 5 (by decide), hbit 6 (by decide),
    hbit 7 (by decide)]
  rfl

/-- A mode field that is no mode (R118). -/
theorem modeOfWord_eq_error {w : Word} (h : ∀ m : Mode, field w 0 5 ≠ m.bits) :
    modeOfWord w = .error (.invalidMode (field w 0 5)) := by
  simp only [modeOfWord]
  split
  next m hm => exact absurd (Mode.bits_of_ofBits hm).symm (h m)
  next => rfl

theorem writeCpsr_keepsT {mask : BitVec 4} {v : Word} {s : State} (hm : s.cpsr.m ≠ .usr) (h0 : mask.getLsbD 0 = true)
    (hT : v.getLsbD 5 = s.cpsr.t) : writeCpsr mask v s = (do
      let m ← stopAt s (modeOfWord v)
      .ok { s with cpsr := { s.cpsr.withFlagByte mask v with i := v.getLsbD 7, f := v.getLsbD 6, m := m } }) := by
  have hcheck : checkNever (v.getLsbD 5 != s.cpsr.t) .msrChangesT s = .ok () :=
    checkNever_eq_ok.mpr (bne_eq_false_iff_eq.mpr hT)
  rw [writeCpsr_controlByte hm h0, hcheck, ok_bind]

/-- T kept and a mode named: the c byte writes I, F and the mode. -/
theorem writeCpsr_ok {mask : BitVec 4} {v : Word} {m : Mode} {s : State} (hm : s.cpsr.m ≠ .usr)
    (h0 : mask.getLsbD 0 = true) (hT : v.getLsbD 5 = s.cpsr.t) (hmode : field v 0 5 = m.bits) : writeCpsr mask v s =
      .ok { s with cpsr := { s.cpsr.withFlagByte mask v with i := v.getLsbD 7, f := v.getLsbD 6, m := m } } := by
  rw [writeCpsr_keepsT hm h0 hT, modeOfWord_eq_ok.mpr hmode]
  rfl

theorem writeCpsr_changesT {mask : BitVec 4} {v : Word} {s : State} (hm : s.cpsr.m ≠ .usr) (h0 : mask.getLsbD 0 = true)
    (hT : v.getLsbD 5 ≠ s.cpsr.t) : writeCpsr mask v s = .error (.stop (.unpredictable .msrChangesT) s) := by
  rw [writeCpsr_controlByte hm h0, checkNever_eq_error.mpr ⟨bne_iff_ne.mpr hT, rfl⟩]
  rfl

theorem writeCpsr_invalidMode {mask : BitVec 4} {v : Word} {s : State} (hm : s.cpsr.m ≠ .usr)
    (h0 : mask.getLsbD 0 = true) (hT : v.getLsbD 5 = s.cpsr.t) (hmode : ∀ m : Mode, field v 0 5 ≠ m.bits) :
    writeCpsr mask v s = .error (.stop (.invalidMode (field v 0 5)) s) := by
  rw [writeCpsr_keepsT hm h0 hT, modeOfWord_eq_error hmode]
  rfl

/-- Settles O23: by whether the c byte is written; where it is, T and the mode are checked in this order. -/
theorem msrCpsrResult : Obligations.MsrCpsrResult := by
  intro i c mask o s hi hs hp
  rw [hi] at hs hp
  rw [exec_eq_runShape, hi, runShape, moveToStatus_runs hs hp, if_neg (by decide)]
  refine ⟨fun m hcontrol => ?_, fun hm h0 => ⟨fun hT => ?_, fun hT hmode => ?_⟩⟩
  · by_cases hc : s.cpsr.m ≠ .usr ∧ mask.getLsbD 0 = true
    · obtain ⟨hT, hmode⟩ := hcontrol hc
      rw [writeCpsr_ok (s := s.begun) hc.1 hc.2 hT hmode]
      simp only [if_pos hc]
      rfl
    · rw [writeCpsr_flagByte (s := s.begun) hc]
      simp only [if_neg hc]
      rfl
  · rw [writeCpsr_changesT (s := s.begun) hm h0 hT]
    rfl
  · rw [writeCpsr_invalidMode (s := s.begun) hm h0 hT hmode]
    rfl

end Sys2Proof.Machine
end

section
/-! PROOFS. User mode changes no control field and no SPSR but by an exception (O21). -/

namespace Sys2Proof.Machine

/-! ### The relation -/

/-- `t` has the mode, I, F and the SPSRs of `s`. -/
structure ControlKept (s t : State) : Prop where
  mode : t.cpsr.m = s.cpsr.m
  i : t.cpsr.i = s.cpsr.i
  f : t.cpsr.f = s.cpsr.f
  spsr : t.spsr = s.spsr

theorem StatusKept.control {s t : State} (h : StatusKept false false s t) : ControlKept s t := by
  have hcpsr := h.cpsr rfl
  exact ⟨by rw [hcpsr], by rw [hcpsr], by rw [hcpsr], h.spsr rfl⟩

theorem ControlKept.begun {s t : State} (h : ControlKept s.begun t) : ControlKept s t := ⟨h.mode, h.i, h.f, h.spsr⟩

theorem runArm_control {c : Cond} {regs : List RegNum} {checks : State → Except Fault Unit}
    {body : State → Except Fault State} {s t : State} (hb : ∀ t, body s.begun = .ok t → ControlKept s.begun t)
    (h : runArm c regs checks body s = .next t) : ControlKept s t := by
  rcases runArm_next h with ⟨-, rfl⟩ | ⟨-, -, h⟩
  · exact ⟨rfl, rfl, rfl, rfl⟩
  · exact (hb t h).begun

/-- A Thumb instruction whose body never faults. -/
theorem runThumb_total_control {f : State → State} {s t : State} (hf : ControlKept s (f s.begun))
    (h : runThumb (fun s => .ok (f s)) s = .next t) : ControlKept s t := by
  cases runThumb_next.mp h
  exact hf

/-- User mode has no SPSR (R121). -/
theorem State.spsrNow_usr {s : State} (hm : s.cpsr.m = .usr) : s.spsrNow = none := by
  rw [State.spsrNow, hm]
  rfl

/-! ### The operations that write the CPSR or an SPSR -/

theorem exchange_control {v : Word} {s t : State} (h : exchange v s = .ok t) : ControlKept s t := by
  rw [branchByT_eq h]
  exact ⟨rfl, rfl, rfl, rfl⟩

/-- With no SPSR there is no return: at most the flags are set (R451). -/
theorem dpWrite_control {op : DpOp} {f : Bool} {rd : RegNum} {out : AluOut} {s t : State} (hno : s.spsrNow = none)
    (h : dpWrite op f rd out s = .ok t) : ControlKept s t := by
  cases f with
  | false => exact (dpWrite_status h).control
  | true =>
    simp only [dpWrite, dpReturn, hno, if_true] at h
    split at h
    · cases h
      exact ⟨rfl, rfl, rfl, rfl⟩
    · split at h
      · obtain ⟨u, -, h⟩ := bind_eq_ok.mp h
        rw [branchArm_eq h]
        exact ⟨rfl, rfl, rfl, rfl⟩
      · cases h
        exact ⟨rfl, rfl, rfl, rfl⟩

theorem multiply_control {c : Cond} {f : Bool} {rd : RegNum} {acc : Option RegNum} {rs rm : RegNum} {s t : State}
    (h : multiply c f rd acc rs rm s = .next t) : ControlKept s t := by
  refine runArm_control (fun t h => ?_) h
  cases h
  cases f <;> exact ⟨rfl, rfl, rfl, rfl⟩

theorem longMultiply_control {sg acc : Bool} {c : Cond} {f : Bool} {rdHi rdLo rs rm : RegNum} {s t : State}
    (h : longMultiply sg acc c f rdHi rdLo rs rm s = .next t) : ControlKept s t := by
  refine runArm_control (fun t h => ?_) h
  cases h
  cases f <;> exact ⟨rfl, rfl, rfl, rfl⟩

/-- MSR in User mode writes the f byte of the CPSR, and no SPSR (R565, R567). -/
theorem moveToStatus_control {c : Cond} {spsr : Bool} {mask : BitVec 4} {o : Operand2} {s t : State}
    (hm : s.cpsr.m = .usr) (h : moveToStatus c spsr mask o s = .next t) : ControlKept s t := by
  refine runArm_control (fun t h => ?_) h
  cases spsr with
  | false =>
    obtain ⟨s', hwrite, h⟩ := bind_eq_ok.mp h
    rw [writeCpsr_flagByte (s := s.begun) fun hpriv => hpriv.1 hm] at hwrite
    cases hwrite
    cases h
    exact ⟨rfl, rfl, rfl, rfl⟩
  | true =>
    obtain ⟨s', hwrite, h⟩ := bind_eq_ok.mp h
    simp only [writeSpsr, State.spsrNow_usr (s := s.begun) hm] at hwrite
    obtain ⟨u, -, hwrite⟩ := bind_eq_ok.mp hwrite
    cases hwrite
    cases h
    exact ⟨rfl, rfl, rfl, rfl⟩

theorem StatusKept.spsrNow {s t : State} (h : StatusKept false false s t) : t.spsrNow = s.spsrNow := by
  rw [State.spsrNow, h.cpsr rfl, h.spsr rfl, State.spsrNow]

/-- With no SPSR the load of R15 that ends an LDM is a branch (R661). -/
theorem StatusKept.loadPc {ub : Bool} {v : Word} {s u t : State} (hu : StatusKept false false s u)
    (hno : s.spsrNow = none) (h : loadPc ub v u = .ok t) : StatusKept false false s t := by
  simp only [Machine.loadPc, hu.spsrNow, hno] at h
  split at h
  · obtain ⟨-, -, h⟩ := bind_eq_ok.mp h
    exact hu.trans (branchArm_status h)
  · exact hu.trans (branchArm_status h)

theorem loadMultiple_status_of_noSpsr {bm : BlockMode} {ub w : Bool} {rn : RegNum} {list : BitVec 16} {s t : State}
    (hno : s.spsrNow = none) (h : loadMultiple bm ub w rn list s = .ok t) : StatusKept false false s t := by
  cases hpc : list.getLsbD 15 with
  | false => simpa only [hpc, Bool.and_false] using loadMultiple_status (sp := false) h
  | true =>
    simp only [loadMultiple, hpc, if_true] at h
    obtain ⟨⟨vs, s1⟩, h1, h⟩ := bind_eq_ok.mp h
    refine StatusKept.loadPc ?_ hno h
    exact (loadWords_rel h1).1.status.trans ((writeBackBlock_status w rn _ s1).trans (writeRegs_status _ _ _))

theorem blockLoad_control {bm : BlockMode} {c : Cond} {ub w : Bool} {rn : RegNum} {list : BitVec 16} {s t : State}
    (hno : s.spsrNow = none) (h : blockLoad bm c ub w rn list s = .next t) : ControlKept s t := by
  refine runArm_control (fun t h => ?_) h
  split at h
  · obtain ⟨⟨v, s1⟩, h1, h⟩ := bind_eq_ok.mp h
    exact ((busLoad_rel h1).status.trans ((writeBackBlock_status w rn _ s1).trans (branchArm_status h))).control
  · exact (loadMultiple_status_of_noSpsr (s := s.begun) hno h).control

theorem thumbCompute_control {rd : LowReg} {f : State → AluOut} {s t : State} (h : thumbCompute rd f s = .next t) :
    ControlKept s t := runThumb_total_control ⟨rfl, rfl, rfl, rfl⟩ h

theorem thumbCompare_control {f : State → AluOut} {s t : State} (h : thumbCompare f s = .next t) : ControlKept s t :=
  runThumb_total_control ⟨rfl, rfl, rfl, rfl⟩ h

theorem thumbMultiply_control {rs rd : LowReg} {s t : State} (h : thumbMultiply rs rd s = .next t) : ControlKept s t := by
  obtain ⟨u, -, h⟩ := bind_eq_ok.mp (runThumb_next.mp h)
  cases h
  exact ⟨rfl, rfl, rfl, rfl⟩

theorem thumbHiCompare_control {m d : RegNum} {s t : State} (h : thumbHiCompare m d s = .next t) : ControlKept s t := by
  obtain ⟨u, -, h⟩ := bind_eq_ok.mp (runThumb_next.mp h)
  obtain ⟨u, -, h⟩ := bind_eq_ok.mp h
  cases h
  exact ⟨rfl, rfl, rfl, rfl⟩

/-! ### Every instruction -/

/-- `t` is the entry of an exception taken in `s`: its mode, its vector, the old CPSR saved in its SPSR (R920). -/
structure Enters (e : Exc) (s t : State) : Prop where
  mode : t.cpsr.m = e.mode
  pc : t.pc = e.vector
  spsr : t.spsr = s.spsr.set e.mode s.cpsr.pack

/-- What an instruction in User mode answers. -/
def UserOutcome (s t : State) : Prop := ControlKept s t ∨ Enters .swi s t ∨ Enters .undefined s t

theorem softwareInterrupt_outcome {k : SwiCall} {w : Word} {s t : State} (h : softwareInterrupt k w s.begun = .ok t) :
    UserOutcome s t := by
  rcases softwareInterrupt_cases h with ⟨-, rfl⟩ | ⟨-, s', hs, rfl⟩
  · exact .inr (.inl ⟨rfl, rfl, rfl⟩)
  · obtain ⟨-, -, hcpsr, hspsr⟩ := swiService_rel hs
    exact .inl (StatusKept.same hcpsr hspsr : StatusKept false false s (s'.advance w)).control

theorem undefined_outcome {bits w : Word} {s t : State} (h : undefined bits w s.begun = .ok t) : UserOutcome s t := by
  rw [undefined_eq h]
  exact .inr (.inr ⟨rfl, rfl, rfl⟩)

theorem runArm_outcome {c : Cond} {regs : List RegNum} {checks : State → Except Fault Unit}
    {body : State → Except Fault State} {s t : State} (hb : ∀ t, body s.begun = .ok t → UserOutcome s t)
    (h : runArm c regs checks body s = .next t) : UserOutcome s t := by
  rcases runArm_next h with ⟨-, rfl⟩ | ⟨-, -, h⟩
  · exact .inl ⟨rfl, rfl, rfl, rfl⟩
  · exact hb t h

/-- By shape: a shape that writes no status register keeps them all (`runShape_status`), the others write flags or T, or
take an exception. -/
theorem runShape_user {sh : Shape} {s t : State} (hm : s.cpsr.m = .usr) (h : runShape sh s = .next t) :
    UserOutcome s t := by
  have hno := State.spsrNow_usr hm
  cases sh with
  | mrs | branch | swap | transfer | tAddress | tAdjustSp | tTransfer | tPush | tPop | tBlock | tBranchIf | tB | tBl =>
    exact .inl (StatusKept.control (runShape_status h))
  | dataProc => exact .inl (runArm_control (fun _ => dpWrite_control hno) h)
  | multiply => exact .inl (multiply_control h)
  | longMultiply => exact .inl (longMultiply_control h)
  | msr => exact .inl (moveToStatus_control hm h)
  | bx => exact .inl (runArm_control (fun _ => exchange_control) h)
  | block load =>
    cases load with
    | false => exact .inl (StatusKept.control (runShape_status h))
    | true => exact .inl (blockLoad_control hno h)
  | undefArm => exact runArm_outcome (fun _ => undefined_outcome) h
  | swi => exact runArm_outcome (fun _ => softwareInterrupt_outcome) h
  | tShift => exact .inl (thumbCompute_control h)
  | tAlu =>
    simp only [runShape] at h
    split at h
    · exact .inl (thumbCompare_control h)
    · exact .inl (thumbCompute_control h)
  | tMul => exact .inl (thumbMultiply_control h)
  | tHi =>
    simp only [runShape] at h
    split at h
    · exact .inl (thumbHi_status h).control
    · exact .inl (thumbHiCompare_control h)
    · exact .inl (thumbHi_status h).control
  | tBx => exact .inl (exchange_control (s := s.begun) (runThumb_next.mp h)).begun
  | tUnd => exact undefined_outcome (runThumb_next.mp h)
  | tSwi => exact softwareInterrupt_outcome (runThumb_next.mp h)

/-- Settles O21: by shape (`runShape_user`). -/
theorem userModePrivilege : Obligations.UserModePrivilege := by
  intro i s t hm h
  rw [exec_eq_runShape] at h
  rcases runShape_user hm h with ⟨hmode, hi, hf, hspsr⟩ | ⟨hmode, hpc, hspsr⟩ | ⟨hmode, hpc, hspsr⟩
  · exact .inl ⟨hmode.trans hm, hi, hf, hspsr⟩
  · exact .inr (.inl ⟨hmode, hpc, hspsr⟩)
  · exact .inr (.inr ⟨hmode, hpc, hspsr⟩)

end Sys2Proof.Machine
end

section
/-! PROOFS. The ARM single transfers and the swaps (O42 to O44): the state each answers where its accesses are served. -/

namespace Sys2Proof.Machine

/-! ### Single transfers (R600 to R625) -/

/-- The write-back in full (R601). -/
theorem writeBackBase_eq (x : Indexing) (rn : RegNum) (v : Word) (s : State) : writeBackBase x rn v s =
    { s with regs := if x.p = false ∨ x.w = true then s.regs.set (physIndex s.cpsr.m rn) v else s.regs } := by
  have hiff : x.writesBack = true ↔ x.p = false ∨ x.w = true := by simp [Indexing.writesBack]
  by_cases h : x.writesBack = true
  · rw [writeBackBase, if_pos h, if_pos (hiff.mp h)]
    rfl
  · rw [writeBackBase, if_neg h, if_neg (mt hiff.mpr h)]

/-- The delivery of a load in full, where a value for R15 may be branched to (R601, R612). -/
theorem finishLoad_ok {rd : RegNum} {v : Word} {s : State} (h : rd = 15#4 → TargetOk v s) : finishLoad rd v s = .ok
    { s with
      regs := if rd = 15#4 then s.regs else s.regs.set (physIndex s.cpsr.m rd) v
      stale := if rd = 15#4 then [] else s.stale
      pc := if rd = 15#4 then v &&& 0xFFFFFFFC#32 else s.pc + 4 } := by
  by_cases hrd : rd = 15#4
  · simp only [finishLoad, if_pos hrd, branchArm_ok (h hrd)]
    rfl
  · simp only [finishLoad, if_neg hrd]
    rfl

/-- A store whose access is served writes the base back and advances (R601). -/
theorem transferBody_store {k : Transfer} {x : Indexing} {rn rd : RegNum} {o : Offset} {s s' : State}
    (hk : k.isLoad = false) (h : storeValue k (x.address (s.x 8 rn) (o.eval s)) (s.x 12 rd) s = .ok s') :
    transferBody k x rn rd o s = .ok ((writeBackBase x rn (x.moved (s.x 8 rn) (o.eval s)) s').advance 4) := by
  simp only [transferBody, hk, Bool.false_eq_true, if_false, h, ok_bind, pure_eq_ok]

/-- Settles O42: the body after the served load is the write-back, then the delivery; the load changed no register. -/
theorem loadResult : Obligations.LoadResult := by
  intro i t c x rn rd o s s' v base off hi ht hs hp hbase hoff hload htarget
  subst hbase hoff
  have hm := loadValue_rel hload
  have hbody := transferBody_load (s := s.begun) (x := x) (rd := rd) ht ((Offset.eval_begun o s).symm ▸ hload)
  rw [transfer_runs hi hs hp, hbody, writeBackBase_eq, finishLoad_ok, settleFrom_ok]
  · simp only [hm.regs, hm.cpsr, hm.pc, Offset.eval_begun]
    rfl
  · intro hrd
    simpa [TargetOk, hm.params] using htarget hrd

/-- Settles O43: the body after the served store is the write-back and the advance; the store changed no register. -/
theorem storeResult : Obligations.StoreResult := by
  intro i t c x rn rd o s s' base off hi ht hs hp hbase hoff hstore
  subst hbase hoff
  have hm := storeValue_rel hstore
  have hbody := transferBody_store (s := s.begun) (x := x) (rd := rd) ht ((Offset.eval_begun o s).symm ▸ hstore)
  rw [transfer_runs hi hs hp, hbody, writeBackBase_eq, settleFrom_ok]
  simp only [State.advance, hm.regs, hm.cpsr, hm.pc, Offset.eval_begun]
  rfl

/-! ### SWP and SWPB (R630, R631) -/

/-- The swaps move a word or a byte both ways. -/
theorem shapeOf_swap {i : Instr} {l k : Transfer} {c : Cond} {rn rd rm : RegNum} (h : shapeOf i = .swap l k c rn rd rm) :
    (l = .ldr ∧ k = .str) ∨ (l = .ldrb ∧ k = .strb) := by
  cases i <;> cases h
  · exact .inl ⟨rfl, rfl⟩
  · exact .inr ⟨rfl, rfl⟩

/-- A permitted swap names no R15 (R632). -/
theorem Permits.swap_ne_pc {l k : Transfer} {c : Cond} {rn rd rm : RegNum} {s : State}
    (hp : Permits (.swap l k c rn rd rm) s) : rn ≠ 15#4 ∧ rd ≠ 15#4 ∧ rm ≠ 15#4 := by
  obtain ⟨hpc, -⟩ := hp
  simpa [Shape.alwaysFaults, and_assoc] using hpc

/-- A permitted swap that starts and whose accesses are served puts the loaded value into Rd and advances. -/
theorem swap_runs {l k : Transfer} {c : Cond} {rn rd rm : RegNum} {s s1 s2 : State} {v : Word}
    (hs : Starts (.swap l k c rn rd rm) s) (hp : Permits (.swap l k c rn rd rm) s)
    (hload : loadValue l (s.bankReg s.cpsr.m rn) s.begun = .ok (v, s1))
    (hstore : storeValue k (s.bankReg s.cpsr.m rn) (s.bankReg s.cpsr.m rm) s1 = .ok s2) :
    swap l k c rn rd rm s = .next ((s2.setX rd v).advance 4) := by
  obtain ⟨hrn, -, hrm⟩ := hp.swap_ne_pc
  have hchecks : swapChecks rn rd rm s.begun = .ok () := swapChecks_eq_ok.mpr hp
  rw [swap, hs.runs (regs := [rn, rd, rm]) rfl rfl hchecks]
  simp only [State.x_of_ne _ _ _ hrn, State.x_of_ne _ _ _ hrm, State.begun_bankReg, State.begun_cpsr, hload, hstore, ok_bind,
    pure_eq_ok, settleFrom_ok]

/-- Settles O44: the swap's run, its accesses having changed no register. -/
theorem swapResult : Obligations.SwapResult := by
  intro i l k c rn rd rm s s1 s2 v hi hs hp hload hstore
  refine ⟨shapeOf_swap hi, ?_⟩
  rw [hi] at hs hp
  have hm := (loadValue_rel hload).trans (storeValue_rel hstore)
  rw [exec_eq_runShape, hi, runShape, swap_runs hs hp hload hstore]
  simp only [State.advance, State.setX, State.setBankReg, hm.regs, hm.cpsr, hm.pc]
  rfl

end Sys2Proof.Machine
end

section
/-! PROOFS. The words of a block transfer in RAM, and the registers of a list (O46). -/

namespace Sys2Proof.Machine

/-! ### The registers of a list (R324) -/

theorem mem_regList {list : BitVec 16} {r : RegNum} : r ∈ regList list ↔ list.getLsbD r.toNat = true := by
  simp only [regList, List.mem_map, List.mem_filter, List.mem_range]
  constructor
  · rintro ⟨k, ⟨hk, hbit⟩, rfl⟩
    rwa [BitVec.toNat_ofNat, Nat.mod_eq_of_lt hk]
  · exact fun hbit => ⟨r.toNat, ⟨r.isLt, hbit⟩, by rw [BitVec.ofNat_toNat, BitVec.setWidth_eq]⟩

theorem regList_increasing (list : BitVec 16) : (regList list).Pairwise (fun a b => a.toNat < b.toNat) := by
  refine List.pairwise_map.mpr (List.Pairwise.imp_of_mem ?_ (List.pairwise_lt_range.filter _))
  intro a b ha hb hab
  have ha16 : a < 16 := List.mem_range.mp (List.mem_of_mem_filter ha)
  have hb16 : b < 16 := List.mem_range.mp (List.mem_of_mem_filter hb)
  rwa [BitVec.toNat_ofNat, BitVec.toNat_ofNat, Nat.mod_eq_of_lt ha16, Nat.mod_eq_of_lt hb16]

/-! ### Words in consecutive places of RAM (R651, R215) -/

/-- The `n` words of a block from `start` on have their aligned places in RAM, one after the other from `key` on. -/
def RamBlock (p : Params) (start : Word) (key n : Nat) : Prop :=
  ∀ k < n, classify p (alignWord (start + BitVec.ofNat 32 (4 * k))) = some (.ram, key + 4 * k)

theorem RamBlock.first {p : Params} {start : Word} {key n : Nat} (h : RamBlock p start key (n + 1)) :
    classify p (alignWord start) = some (.ram, key) := by
  simpa using h 0 n.succ_pos

theorem RamBlock.rest {p : Params} {start : Word} {key n : Nat} (h : RamBlock p start key (n + 1)) :
    RamBlock p (start + 4) (key + 4) n := by
  intro k hk
  rw [blockAddress_succ, h (k + 1) (Nat.succ_lt_succ hk), Nat.mul_succ, Nat.add_comm (4 * k), Nat.add_assoc]

/-- The bytes from `key` on are the words in order, each little-endian. -/
def HoldsWords (m : Memory) (key : Nat) (vs : List Word) : Prop :=
  ∀ (k : Nat) (v : Word), vs[k]? = some v → ∀ j < 4, Memory.read m (key + 4 * k + j) = some (v.extractLsb' (8 * j) 8)

theorem HoldsWords.first {m : Memory} {key : Nat} {v : Word} {vs : List Word} (h : HoldsWords m key (v :: vs)) :
    ∀ j < 4, Memory.read m (key + j) = some (byteOf v j) := h 0 v rfl

theorem HoldsWords.rest {m : Memory} {key : Nat} {v : Word} {vs : List Word} (h : HoldsWords m key (v :: vs)) :
    HoldsWords m (key + 4) vs := by
  intro k w hk j hj
  rw [← h (k + 1) w hk j hj]
  congr 1
  omega

theorem HoldsWords.cons {m : Memory} {key : Nat} {v : Word} {vs : List Word}
    (hfirst : ∀ j < 4, Memory.read m (key + j) = some (byteOf v j)) (hrest : HoldsWords m (key + 4) vs) :
    HoldsWords m key (v :: vs) := by
  intro k w hk j hj
  cases k with
  | zero =>
    cases hk
    exact hfirst j hj
  | succ k =>
    rw [← hrest k w hk j hj]
    congr 1
    omega

/-- A load of a word from RAM that holds it. -/
theorem busLoad_word_ram {a v : Word} {s : State} {key : Nat} (ha : classify s.params a = some (.ram, key))
    (hv : ∀ j < 4, Memory.read s.mem (key + j) = some (byteOf v j)) : busLoad .word a s = .ok (v, s) := by
  rw [busLoad_memory (w := .word) (f := byteOf v) (.inl rfl) ha hv]
  simp only [Width.bytes, wordOfBytes_byteOf]
  exact congrArg (fun v => Except.ok (v, s)) BitVec.and_allOnes

theorem loadWords_ram {vs : List Word} {start : Word} {key : Nat} {s : State} (hplace : RamBlock s.params start key vs.length)
    (hwords : HoldsWords s.mem key vs) : loadWords start vs.length s = .ok (vs, s) := by
  induction vs generalizing start key with
  | nil => rfl
  | cons v vs ih =>
    rw [List.length_cons, loadWords, busLoad_word_ram hplace.first hwords.first, ok_bind, ih hplace.rest hwords.rest]
    rfl

/-- The words after the first are stored beyond its bytes, which therefore stay. -/
theorem storeWords_ram {vs : List Word} {start : Word} {key : Nat} {s : State}
    (hplace : RamBlock s.params start key vs.length) :
    ∃ t, storeWords start vs s = .ok t ∧ t = { s with mem := t.mem, stale := t.stale } ∧ HoldsWords t.mem key vs ∧
      ∀ a, a < key ∨ key + 4 * vs.length ≤ a → Memory.read t.mem a = Memory.read s.mem a := by
  induction vs generalizing start key s with
  | nil => exact ⟨s, rfl, rfl, nofun, fun _ _ => rfl⟩
  | cons v vs ih =>
    obtain ⟨l, hstore⟩ := cpuStore_ok (busStore_ram (w := .word) (v := v) hplace.first)
    obtain ⟨t, hrun, hframe, hwords, hout⟩ := ih
      (s := { s with mem := Memory.writeN s.mem key Width.word.bytes v, stale := l }) hplace.rest
    refine ⟨t, ?_, ?_, .cons (fun j hj => ?_) hwords, fun a ha => ?_⟩
    · rw [storeWords, hstore]
      exact hrun
    · rw [hframe]
    · rw [hout _ (.inl (by omega))]
      exact Memory.read_writeN_inside _ _ _ _ _ hj
    · rw [List.length_cons] at ha
      rw [hout a (by omega)]
      exact Memory.read_writeN_outside _ _ _ _ _ (by simp only [Width.bytes]; omega)

/-- Settles O46: the stores word by word, then the loads from the memory they leave, at the same places. -/
theorem blockWords : Obligations.BlockWords := by
  refine ⟨fun start vs s key hplace => ?_, fun list => ⟨fun _ => mem_regList, regList_increasing list⟩⟩
  obtain ⟨t, hrun, hframe, hwords, hout⟩ := storeWords_ram hplace
  exact ⟨t, hrun, hframe, hwords, hout, loadWords_ram ((storeWords_rel hrun).params ▸ hplace) hwords⟩

end Sys2Proof.Machine
end

section
/-! PROOFS. LDM and STM (O47 to O49): the state each answers where its words are transferred. -/

namespace Sys2Proof.Machine

/-! ### The parts of a block transfer -/

theorem regList_nodup (list : BitVec 16) : (regList list).Nodup :=
  (regList_increasing list).imp fun hlt heq => Nat.ne_of_lt hlt (congrArg BitVec.toNat heq)

/-- Two registers of one mode, neither of them R15, are two physical registers (R103). -/
theorem physIndex_ne {i j : RegNum} (m : Mode) (hi : i ≠ 15#4) (hj : j ≠ 15#4) (h : i ≠ j) : physIndex m i ≠ physIndex m j :=
  fun heq => h ((physIndex_inj m m i j hi hj).mp heq).1

theorem blockCount_of_ne {list : BitVec 16} (h : list ≠ 0#16) : blockCount list = (regList list).length := if_neg h

/-- The write-back in full (R654, log 15). -/
theorem writeBackBlock_eq (w : Bool) (rn : RegNum) (v : Word) (s : State) : writeBackBlock w rn v s =
    { s with regs := if w = true ∧ rn ≠ 15#4 then s.regs.set (physIndex s.cpsr.m rn) v else s.regs } := by
  have hiff : (w && rn != 15#4) = true ↔ w = true ∧ rn ≠ 15#4 := by simp
  by_cases h : w = true ∧ rn ≠ 15#4
  · rw [writeBackBlock, if_pos (hiff.mpr h), if_pos h]
    rfl
  · rw [writeBackBlock, if_neg (mt hiff.mp h), if_neg h]

theorem writeRegs_eq (m : Mode) (l : List (RegNum × Word)) (s : State) :
    writeRegs m l s = { s with regs := (writeRegs m l s).regs } := by
  induction l generalizing s with
  | nil => rfl
  | cons p l ih =>
    rw [writeRegs, ih]
    split <;> rfl

/-- Each register of a list without repetition gets its value. -/
theorem bankReg_writeRegs_zip {m : Mode} {regs : List RegNum} {vs : List Word} {k : Nat} {r : RegNum} {v : Word}
    (hnodup : regs.Nodup) (hr : regs[k]? = some r) (hv : vs[k]? = some v) (hpc : r ≠ 15#4) (s : State) :
    (writeRegs m (regs.zip vs) s).bankReg m r = v := by
  induction regs generalizing vs k s with
  | nil => cases hr
  | cons q regs ih =>
    obtain ⟨hq, hnodup⟩ := List.nodup_cons.mp hnodup
    cases vs with
    | nil => cases hv
    | cons u vs =>
      rw [List.zip_cons_cons, writeRegs]
      cases k with
      | zero =>
        cases hr
        cases hv
        rw [writeRegs_bankReg, if_neg hpc, State.bankReg_setBankReg_same]
        intro p hp
        have hmem : p.1 ∈ regs := (List.of_mem_zip hp).1
        exact or_iff_not_imp_left.mpr fun hp15 => physIndex_ne m hpc hp15 fun heq => hq (heq ▸ hmem)
      | succ k => exact ih hnodup hr hv _

/-! ### LDM (R652) -/

/-- `s` with the base written back, then the registers of the list with their words in the bank `m`, R15 left out. -/
def State.loadedBlock (s : State) (m : Mode) (list : BitVec 16) (vs : List Word) (w : Bool) (rn : RegNum) (moved : Word) :
    State := writeRegs m ((regList list).zip vs) (writeBackBlock w rn moved s)

section
variable (s : State) (m : Mode) {list : BitVec 16} {vs : List Word} {w : Bool} {rn : RegNum} (moved : Word)

theorem State.loadedBlock_eq :
    s.loadedBlock m list vs w rn moved = { s with regs := (s.loadedBlock m list vs w rn moved).regs } := by
  rw [State.loadedBlock, writeRegs_eq, writeBackBlock_eq]

theorem State.loadedBlock_listed {k : Nat} {r : RegNum} {v : Word} (hr : (regList list)[k]? = some r) (hpc : r ≠ 15#4)
    (hv : vs[k]? = some v) : (s.loadedBlock m list vs w rn moved).bankReg m r = v :=
  bankReg_writeRegs_zip (regList_nodup list) hr hv hpc _

theorem State.loadedBlock_base {m' : Mode} (hm : s.cpsr.m = m') (hw : w = true) (hrn : rn ≠ 15#4)
    (hlist : ∀ r ∈ regList list, r ≠ 15#4 → physIndex m' rn ≠ physIndex m r) :
    (s.loadedBlock m list vs w rn moved).bankReg m' rn = moved := by
  subst hm
  rw [State.loadedBlock, writeRegs_bankReg, writeBackBlock_eq, if_pos ⟨hw, hrn⟩]
  · exact State.bankReg_setBankReg_same s s.cpsr.m rn moved
  · exact fun p hp => or_iff_not_imp_left.mpr (hlist p.1 (List.of_mem_zip hp).1)

end

/-- A permitted LDM that starts runs its body. -/
theorem blockLoad_runs {i : Instr} {bm : BlockMode} {c : Cond} {ub w : Bool} {rn : RegNum} {list : BitVec 16} {s : State}
    (hi : shapeOf i = .block true bm c ub w rn list) (hs : Starts (shapeOf i) s) (hp : Permits (shapeOf i) s) :
    exec i s = settleFrom s (if list = 0#16 then loadEmpty bm w rn s.begun else loadMultiple bm ub w rn list s.begun) := by
  rw [hi] at hs hp
  have hchecks : blockChecks true ub w rn list s.begun = .ok () := blockChecks_eq_ok.mpr hp
  rw [exec_eq_runShape, hi, runShape, if_pos rfl, blockLoad, hs.runs (regs := blockRegs true ub rn list) rfl rfl hchecks]

/-- LDM of a list where its words are read: the base and the registers, then R15 or the next instruction. -/
theorem loadMultiple_eq {bm : BlockMode} {ub w : Bool} {rn : RegNum} {list : BitVec 16} {s s' : State} {vs : List Word}
    (hlist : list ≠ 0#16)
    (h : loadWords (bm.start (s.x 8 rn) (regList list).length) (regList list).length s = .ok (vs, s')) :
    loadMultiple bm ub w rn list s =
      let u := s'.loadedBlock (blockBank true ub list s.cpsr.m) list vs w rn (bm.writeBack (s.x 8 rn) (regList list).length)
      if list.getLsbD 15 then loadPc ub (vs.getLastD 0) u else .ok ({ u with afterUserLdm := ub }.advance 4) := by
  simp only [loadMultiple, blockCount_of_ne hlist, h, ok_bind]
  rfl

/-- An LDM leaves every register it neither loads nor writes back: the frame O53 for this shape. -/
theorem blockLoad_frame {i : Instr} {bm : BlockMode} {c : Cond} {ub w : Bool} {rn : RegNum} {list : BitVec 16} {s t : State}
    (hi : shapeOf i = .block true bm c ub w rn list) (h : exec i s = .next t) {m : Mode} {j : RegNum} (hj : j ≠ 15#4)
    (hlist : ∀ r ∈ regList list, r ≠ 15#4 → physIndex m j ≠ physIndex (blockBank true ub list s.cpsr.m) r)
    (hbase : w = false ∨ physIndex m j ≠ physIndex s.cpsr.m rn) : t.bankReg m j = s.bankReg m j := by
  refine registerFrame i s t m j h hj fun q hq hpc => ?_
  rw [hi, Shape.writes] at hq
  rcases List.mem_append.mp hq with hq | hq
  · obtain ⟨r, hr, rfl⟩ := List.mem_map.mp hq
    exact hlist r hr hpc
  · cases w with
    | false => cases hq
    | true =>
      obtain rfl := List.mem_singleton.mp hq
      exact hbase.resolve_left (by decide)

/-- Settles O47: the body after the served reads is `loadedBlock` and the advance. -/
theorem blockLoadResult : Obligations.BlockLoadResult := by
  intro i bm c ub w rn list s s' vs m hi h15 hlist hs hp hm hload
  have hbank : blockBank true ub list s.cpsr.m = m := by
    simp only [hm, blockBank, h15, Bool.and_false, Bool.not_false, Bool.and_true]
  have hmem := (loadWords_rel hload).1
  have hpc : s'.pc = s.pc := hmem.pc
  have hrun := blockLoad_runs hi hs hp
  rw [if_neg hlist, loadMultiple_eq (s := s.begun) hlist hload, State.begun_cpsr, hbank,
    if_neg (ne_true_of_eq_false h15)] at hrun
  refine ⟨_, hrun, ?_, fun k r v hr hv => ?_, fun hw hrn hne => ?_, fun m' j hj hne hbase => ?_⟩
  · rw [← hpc]
    exact congrArg (fun u : State => { u with afterUserLdm := ub }.advance 4) (s'.loadedBlock_eq m _)
  · refine s'.loadedBlock_listed m _ hr ?_ hv
    rintro rfl
    exact absurd (mem_regList.mp (List.mem_of_getElem? hr)) (ne_true_of_eq_false h15)
  · exact s'.loadedBlock_base m _ (congrArg Cpsr.m hmem.cpsr) hw hrn fun r hr _ => hne r hr
  · exact blockLoad_frame hi hrun hj (fun r hr _ => hbank ▸ hne r hr) hbase

/-! ### LDM with R15 in the list, and the empty list (R656, R657, R661) -/

/-- A list with R15 is not the empty one. -/
theorem ne_empty_of_pc {list : BitVec 16} (h15 : list.getLsbD 15 = true) : list ≠ 0#16 := by
  rintro rfl
  cases h15

/-- LDM with R15 in the list loads the current mode's registers, whatever S is (R661). -/
theorem blockBank_pc {ub : Bool} {list : BitVec 16} {m : Mode} (h15 : list.getLsbD 15 = true) :
    blockBank true ub list m = m := by
  simp only [blockBank, h15, Bool.and_self, Bool.not_true, Bool.and_false, Bool.false_eq_true, if_false]

/-- `p` is the CPSR that LDM with R15 in the list leaves: the current one with S = 0, the restored one with S = 1, the current
one by its alternative where there is no SPSR. -/
def LeavesStatus (ub : Bool) (s : State) (p : Cpsr) : Prop :=
  (ub = false ∧ p = s.cpsr) ∨ (ub = true ∧ ∃ saved, s.spsrNow = some saved ∧ Cpsr.unpack saved = .ok p) ∨
    (ub = true ∧ s.spsrNow = none ∧ s.params.arm7tdmiAlt = true ∧ p = s.cpsr)

/-- The write of R15 in full, from ARM state. -/
theorem loadPc_ok {ub : Bool} {target : Word} {p : Cpsr} {s : State} (hp : LeavesStatus ub s p) (ht : s.cpsr.t = false)
    (h : p.t = false → TargetOk target s) :
    loadPc ub target s = .ok ({ s with cpsr := p }.jump (alignTarget p.t target)) := by
  have hbranch (hpc : p = s.cpsr) :
      branchArm target s = .ok ({ s with cpsr := p }.jump (alignTarget p.t target)) := by
    subst hpc
    rw [branchArm_ok (h ht), ht]
    rfl
  rcases hp with ⟨rfl, hpc⟩ | ⟨rfl, saved, hsaved, hunpack⟩ | ⟨rfl, hnone, halt, hpc⟩
  · exact hbranch hpc
  · simp only [loadPc, if_true, hsaved, returnFromException_ok hunpack h]
  · simp only [loadPc, if_true, hnone, unpredictable, halt, ok_bind, hbranch hpc]

/-- LDM with R15 in the list where its words are read: R15 last, from the status as it was before the reads. -/
theorem loadMultiple_pc {bm : BlockMode} {ub w : Bool} {rn : RegNum} {list : BitVec 16} {s s' : State} {vs : List Word}
    {target : Word} {p : Cpsr} (h15 : list.getLsbD 15 = true)
    (hload : loadWords (bm.start (s.x 8 rn) (regList list).length) (regList list).length s = .ok (vs, s'))
    (hlast : vs.getLast? = some target) (hp : LeavesStatus ub s p) (ht : s.cpsr.t = false)
    (htarget : p.t = false → TargetOk target s) : loadMultiple bm ub w rn list s =
      .ok ({ s'.loadedBlock s.cpsr.m list vs w rn (bm.writeBack (s.x 8 rn) (regList list).length) with cpsr := p }.jump
        (alignTarget p.t target)) := by
  have hlastD : vs.getLastD 0 = target := by rw [List.getLastD_eq_getLast?, hlast]; rfl
  have hmem := (loadWords_rel hload).1
  rw [loadMultiple_eq (ne_empty_of_pc h15) hload, blockBank_pc h15, hlastD]
  refine (if_pos h15).trans (loadPc_ok ?_ ?_ ?_) <;> rw [State.loadedBlock_eq]
  · simpa only [LeavesStatus, State.spsrNow, hmem.params, hmem.cpsr, hmem.spsr] using hp
  · exact hmem.cpsr ▸ ht
  · simpa only [TargetOk, hmem.params] using htarget

/-- The empty list where R15 is read: the write-back and a branch (R657). -/
theorem loadEmpty_ok {bm : BlockMode} {w : Bool} {rn : RegNum} {s s' : State} {v : Word} (halt : s.params.arm7tdmiAlt = true)
    (h : busLoad .word (alignWord (bm.start (s.x 8 rn) 16)) s = .ok (v, s')) : loadEmpty bm w rn s =
      .ok ((writeBackBlock w rn (bm.writeBack (s.x 8 rn) 16) s').jump (v &&& 0xFFFFFFFC#32)) := by
  simp only [loadEmpty, show blockCount 0#16 = 16 from rfl, h, ok_bind]
  refine branchArm_ok ?_
  rw [writeBackBlock_eq]
  exact .inl ((busLoad_rel h).params ▸ halt)

/-- Settles O48: with a list the body after the served reads is `loadedBlock` and the write of R15; the empty list, permitted
by its alternative alone, is the write-back and a branch. -/
theorem blockLoadPcResult : Obligations.BlockLoadPcResult := by
  refine ⟨fun i bm c ub w rn list s s' vs target p hi h15 hs hp hload hlast hstatus ht htarget => ?_,
    fun i bm c ub w rn s s' v hi hs hp hload => ?_⟩
  · have hmem := (loadWords_rel hload).1
    have hrun := blockLoad_runs hi hs hp
    rw [if_neg (ne_empty_of_pc h15), loadMultiple_pc (s := s.begun) h15 hload hlast hstatus ht htarget] at hrun
    refine ⟨_, hrun, ?_, fun k r v hr hpc hv => ?_, fun hw hrn hbit => ?_, fun m' j hj hne hbase => ?_⟩
    · exact congrArg (fun u : State => { u with cpsr := p }.jump (alignTarget p.t target)) (s'.loadedBlock_eq s.cpsr.m _)
    · exact s'.loadedBlock_listed s.cpsr.m _ hr hpc hv
    · refine s'.loadedBlock_base s.cpsr.m _ (congrArg Cpsr.m hmem.cpsr) hw hrn fun r hr hpc => physIndex_ne _ hrn hpc ?_
      rintro rfl
      exact absurd (mem_regList.mp hr) (ne_true_of_eq_false hbit)
    · exact blockLoad_frame hi hrun hj (fun r hr hpc => (blockBank_pc h15).symm ▸ hne r hr hpc) hbase
  · have halt : s.params.arm7tdmiAlt = true := hp.2.resolve_right (by simp [hi, Shape.altCase])
    have hmem := busLoad_rel hload
    rw [blockLoad_runs hi hs hp, if_pos rfl, loadEmpty_ok (s := s.begun) halt hload, writeBackBlock_eq]
    simp only [hmem.regs, hmem.cpsr]
    rfl

/-! ### STM (R653) -/

/-- The values STM stores, in the words of O49 (R653 to R655, R657, R660). -/
theorem storedValues_eq (bm : BlockMode) (ub w : Bool) (rn : RegNum) (list : BitVec 16) (s : State) :
    storedValues bm ub w rn list s =
      if list = 0#16 then [s.pc + 12]
      else (regList list).map (fun r =>
        if r = 15#4 then s.pc + 12
        else if r = rn ∧ w = true then
          (if (regList list).head? = some rn then s.bankReg s.cpsr.m rn else bm.writeBack (s.x 8 rn) (blockCount list))
        else s.bankReg (if ub then .usr else s.cpsr.m) r) := by
  rw [storedValues]
  split
  · rfl
  · refine List.map_congr_left fun r _ => ?_
    by_cases hr : r = 15#4
    · simp only [storedReg, if_pos hr]
    · by_cases hbase : r = rn ∧ w = true
      · obtain ⟨rfl, rfl⟩ := hbase
        simp [storedReg, hr, isLowest, State.x_of_ne]
      · simp [storedReg, hr, hbase]

/-- Settles O49: the body after the served stores is the write-back and the advance; the stores changed no register. -/
theorem blockStoreResult : Obligations.BlockStoreResult := by
  intro i bm c ub w rn list s s' n hi hs hp hn hstore
  rw [hi] at hs hp
  have hcount : blockCount list = n := hn.symm
  have hmem := storeWords_rel hstore
  have hchecks : blockChecks false ub w rn list s.begun = .ok () := blockChecks_eq_ok.mpr hp
  have hvalues := storedValues_eq bm ub w rn list s.begun
  rw [hcount] at hvalues
  rw [exec_eq_runShape, hi, runShape, if_neg (by decide), blockStore,
    hs.runs (regs := blockRegs false ub rn list) rfl rfl hchecks]
  simp only [hcount, hvalues, State.begun_x, State.begun_pc, State.begun_bankReg, State.begun_cpsr, hstore, ok_bind,
    pure_eq_ok, settleFrom_ok, writeBackBlock_eq, State.advance, hmem.regs, hmem.cpsr, hmem.pc]
  rfl

end Sys2Proof.Machine
end

section
/-! PROOFS. The Thumb data-processing instructions (O34 to O37): the state each shared operation answers, and the operands
and results as the statements name them. -/

namespace Sys2Proof.Machine

/-! ### Formats 1 to 4: a result with its flags (R700 to R727, R434) -/

/-- A result with its flags: Rd, N, Z, C and V by the result's law, and the pc change. -/
theorem thumbCompute_runs (rd : LowReg) (f : State → AluOut) (s : State) : thumbCompute rd f s = .next
    { s with
      afterUserLdm := false
      regs := s.regs.set (physIndex s.cpsr.m rd.num) (f s.begun).r
      cpsr := s.cpsr.setAlu (f s.begun)
      pc := s.pc + 2 } := rfl

/-- A comparison: the flags and the pc change, no register does. -/
theorem thumbCompare_runs (f : State → AluOut) (s : State) : thumbCompare f s = .next
    { s with afterUserLdm := false, cpsr := s.cpsr.setAlu (f s.begun), pc := s.pc + 2 } := rfl

/-- The operand a Thumb ALU instruction reads is the one the statements name. -/
theorem TArg.read_begun (a : TArg) (s : State) : a.read s.begun = a.value s := by
  cases a with
  | reg r => exact s.lo_eq r
  | imm v => rfl

/-- Settles O34: a comparison or a computation, the result and the flags by exact arithmetic; the logical ones keep C, CPSR.C
being their shifter carry. -/
theorem thumbAluResult : Obligations.ThumbAluResult := by
  intro i op rd a b s hi
  rw [exec_eq_runShape, hi, runShape]
  cases op.isCompare with
  | true =>
    rw [if_pos rfl, thumbCompare_runs, a.read_begun, b.read_begun, ← Cpsr.setAlu_dpCompute]
    rfl
  | false =>
    rw [if_neg Bool.false_ne_true, thumbCompute_runs, a.read_begun, b.read_begun, dpCompute_r, ← Cpsr.setAlu_dpCompute]
    rfl

/-- The flags of a shift (R434): N and Z of the value, C the shifter's carry, V kept. -/
theorem Cpsr.setAlu_thumbShift (p : Cpsr) (x : Shifted) :
    p.setAlu (thumbShift x) = { p with n := x.1.getLsbD 31, z := decide (x.1 = 0#32), c := x.2 } := by
  rw [← BitVec.msb_eq_getLsbD_last]
  rfl

/-- Settles O35: a computation whose result is the shifter's, of the low registers the statement names. -/
theorem thumbShiftResult : Obligations.ThumbShiftResult := by
  intro i sh n src rd s x hi hx
  have hout : tShiftOut sh n src s.begun = x := by
    rw [hx]
    cases n with
    | imm k => simp only [tShiftOut, State.lo_eq, State.begun_bankReg, State.begun_cpsr]
    | reg r => simp only [tShiftOut, State.lo_eq, State.begun_bankReg, State.begun_cpsr, shiftAmount_eq]
  rw [exec_eq_runShape, hi, runShape, thumbCompute_runs, hout, Cpsr.setAlu_thumbShift]
  rfl

/-! ### Format 5 (R730 to R733) -/

/-- What a permitted instruction of format 5 passes: two low registers, and R15 in CMP, only with `arm7tdmiAlt` (R731, R733). -/
theorem Permits.tHi_cases {op : DpOp} {m d : RegNum} {s : State} (hp : Permits (.tHi op m d) s) :
    s.params.arm7tdmiAlt = true ∨
      (bothLow m d = false ∧ (decide (op = .cmp) && (decide (m = 15#4) || decide (d = 15#4))) = false) :=
  hp.2.imp_right Bool.or_eq_false_iff.mp

/-- ADD and MOV of format 5 that are permitted: a result for R15 is a branch that keeps Thumb state, for another register its
new value; no flag changes. -/
theorem thumbHi_runs {op : DpOp} {m d : RegNum} {s : State} (hp : Permits (.tHi op m d) s) (f : State → Word) :
    thumbHi m d f s = .next
      (if d = 15#4 then { s with afterUserLdm := false, stale := [], pc := f s.begun &&& 0xFFFFFFFE#32 }
       else { s with afterUserLdm := false, pc := s.pc + 2, regs := s.regs.set (physIndex s.cpsr.m d) (f s.begun) }) := by
  have hlow : checkAlt (bothLow m d) .thumbHiOpBothLow s.begun = .ok () :=
    checkAlt_ok (hp.tHi_cases.imp_right And.left)
  rw [thumbHi, runThumb_runs, hlow]
  rfl

/-- CMP of format 5 that is permitted sets the flags of the difference. -/
theorem thumbHiCompare_runs {m d : RegNum} {s : State} (hp : Permits (.tHi .cmp m d) s) :
    thumbHiCompare m d s = .next (thumbFlags (subLaw (s.x 4 d) (s.x 4 m) false) s.begun) := by
  have hlow : checkAlt (bothLow m d) .thumbHiOpBothLow s.begun = .ok () :=
    checkAlt_ok (hp.tHi_cases.imp_right And.left)
  have hpc : checkAlt (m = 15#4 || d = 15#4) .thumbCmpPc s.begun = .ok () :=
    checkAlt_ok (hp.tHi_cases.imp_right And.right)
  rw [thumbHiCompare, runThumb_runs, hlow, ok_bind, hpc]
  rfl

/-- Settles O36: ADD and MOV write their result, CMP the flags by exact arithmetic. -/
theorem thumbHiResult : Obligations.ThumbHiResult := by
  refine fun m d s => ⟨fun hp => ?_, fun hp => ?_, fun hp => ?_⟩
  · exact thumbHi_runs hp fun s => s.x 4 d + s.x 4 m
  · exact thumbHi_runs hp fun s => s.x 4 m
  · rw [exec_eq_runShape, shapeOf, runShape, thumbHiCompare_runs hp, ← Cpsr.setAlu_dpCompute]
    rfl

/-! ### Formats 12 and 13 (R740 to R742) -/

/-- A word offset of a Thumb instruction is its field times 4 (R341). -/
theorem setWidth_shiftLeft_two {n : Nat} (imm : BitVec n) : imm.setWidth 32 <<< 2 = imm.setWidth 32 * 4 :=
  shiftLeft_eq_mul _ 2

/-- An address into a low register: no flag changes. -/
theorem thumbAddress_runs (rd : LowReg) (f : State → Word) (s : State) : thumbAddress rd f s = .next
    { s with
      afterUserLdm := false, pc := s.pc + 2
      regs := s.regs.set (physIndex s.cpsr.m rd.num) (f s.begun) } := rfl

/-- Settles O37: the three forms write a register and advance; the base and the offset as the statements name them. -/
theorem thumbAddressResult : Obligations.ThumbAddressResult := by
  intro rd imm sub imm7 s
  have hsp : s.x 4 13#4 = s.bankReg s.cpsr.m 13#4 := s.x_of_ne 4 13#4 (by decide)
  rw [← setWidth_shiftLeft_two, ← setWidth_shiftLeft_two, ← hsp]
  exact ⟨thumbAddress_runs rd (fun s => pcAligned s + wordOffset imm) s,
    thumbAddress_runs rd (fun s => s.x 4 13#4 + wordOffset imm) s, rfl⟩

end Sys2Proof.Machine
end

section
/-! PROOFS. Whose turn a step is, and what it does on it (O3, O5, O9, O10). -/

namespace Sys2Proof

/-! ### The code word of an instruction -/

theorem decodeArm_of_encode {i : Instr} {w : Word} (h : encode i = .arm w) : decodeArm w = some i := by
  rw [← encodeDecode i, h, decode]

theorem decodeThumb_of_encode {i : Instr} {half : Half} (h : encode i = .thumb half) : decodeThumb half = some i := by
  rw [← encodeDecode i, h, decode]

/-- Settles O3: ten of the words are the encoding of their instruction, two fall into a hole of the decoder. -/
theorem specWords : Obligations.SpecWords :=
  ⟨decodeArm_of_encode rfl, decodeArm_of_encode rfl, decodeArm_of_encode rfl, decodeArm_of_encode rfl,
    decodeArm_of_encode rfl, decodeArm_of_encode rfl, decodeArm_of_encode rfl, by decide, decodeThumb_of_encode rfl,
    decodeThumb_of_encode rfl, decodeThumb_of_encode rfl, by decide⟩

/-- The set a code word is of (R300). -/
def Code.isThumb : Code → Bool
  | .arm _ => false
  | .thumb _ => true

theorem encode_isThumb (i : Instr) : (encode i).isThumb = i.isThumb := by
  cases h : encode i with
  | arm w => exact (decodeArm_isThumb (decodeArm_of_encode h)).symm
  | thumb half => exact (decodeThumb_isThumb (decodeThumb_of_encode h)).symm

end Sys2Proof

namespace Sys2Proof.Machine

/-- The bytes of a code word are those of its bits, lowest first (R205). -/
theorem code_bytes_eq (k : Code) :
    k.bytes = (List.range (if k.isThumb then Width.half else .word).bytes).map (byteOf (codeBits k)) := by
  cases k with
  | arm w => rfl
  | thumb half => simp [Code.bytes, Code.isThumb, List.range_succ, byteOf, codeBits, field, BitVec.extractLsb'_setWidth_of_le]

/-- Loaded, the bytes of a code word give it back (R203). -/
theorem code_of_bytes (k : Code) :
    (if k.isThumb then Code.thumb ((wordOfBytes k.bytes).setWidth 16) else .arm (wordOfBytes k.bytes)) = k := by
  rw [code_bytes_eq, wordOfBytes_byteOf]
  cases k with
  | arm w => exact congrArg Code.arm BitVec.and_allOnes
  | thumb half =>
    refine congrArg Code.thumb ?_
    rw [codeBits, BitVec.setWidth_and, BitVec.setWidth_setWidth_of_le _ (by decide), BitVec.setWidth_eq]
    exact BitVec.and_allOnes

/-! ### The fetch of an instruction that stands at the pc (R203, R250) -/

theorem dropRaced_of_none {l : List Stale} {a : Word} (h : racedWords l a = []) : dropRaced l a = l := by
  have hnone : ∀ e ∈ l, e.addr ≠ a := by simpa [racedWords] using h
  simpa [dropRaced] using hnone

/-- A fetch of a code word whose bytes stand in RAM or ROM at the pc gives it and changes nothing. -/
theorem fetch_code {s : State} {k : Code} {r : Region} {key : Nat} (hset : s.cpsr.t = k.isThumb)
    (hplace : classify s.params s.pc = some (r, key)) (hr : r = .ram ∨ r = .rom)
    (hbytes : ∀ j b, k.bytes[j]? = some b → Memory.read s.mem (key + j) = some b) (hraced : racedWords s.stale s.pc = []) :
    fetch s = .ok (k, s) := by
  have hread : ∀ j < (fetchWidth s).bytes, Memory.read s.mem (key + j) = some (byteOf (codeBits k) j) := fun j hj => by
    refine hbytes j _ ?_
    rw [fetchWidth, hset] at hj
    simp [code_bytes_eq, hj]
  have hload : busLoad (fetchWidth s) s.pc s = .ok (wordOfBytes k.bytes, s) := by
    rw [busLoad_memory hr hplace hread, code_bytes_eq, fetchWidth, hset]
  simp only [fetch, hload, hraced, chooseRaced, List.isEmpty_nil, if_true, ok_bind, pure_eq_ok, dropRaced_of_none hraced,
    hset, code_of_bytes]

/-! ### The turns (R10, R240, R952) -/

theorem step_cpu {s u : State} (h : s.nextTurn = (.cpu, u)) : step s = cpuStep u := by
  simp only [step, h]

theorem step_host {s u : State} {e : HostEvent} (h : s.nextTurn = (.host e, u)) : step s = settle (hostStep e u) := by
  simp only [step, h]

theorem State.nextTurn_nil {s : State} (h : s.schedule = []) : s.nextTurn = (.cpu, s) := by
  simp only [State.nextTurn, h]

theorem State.nextTurn_cons {s : State} {t : Turn} {rest : List Turn} (h : s.schedule = t :: rest) :
    s.nextTurn = (t, { s with schedule := rest }) := by
  simp only [State.nextTurn, h]

/-- The CPU unit's turn with an interrupt to take is the entry (R952). -/
theorem step_interrupt {s u : State} {e : Exc} (h : s.nextTurn = (.cpu, u)) (hpending : pendingInterrupt u = some e) :
    step s = .next (enterInterrupt e u) := by
  simp only [step_cpu h, cpuStep, hpending]

/-- With none it is the instruction fetched (R952). -/
theorem step_instruction {s u s' : State} {k : Code} {i : Instr} (h : s.nextTurn = (.cpu, u))
    (hpending : pendingInterrupt u = none) (hfetch : fetch u = .ok (k, s')) (hdecode : decode k = some i) :
    step s = exec i s' := by
  simp only [step_cpu h, cpuStep, hpending, runInstruction, hfetch, runCode, hdecode]

/-- Settles O5: an instruction standing at the pc is fetched as its own code word (`fetch_code`), which decodes to it. -/
theorem stepRunsDecoded : Obligations.StepRunsDecoded := by
  refine ⟨fun s u s' k i h hpending => step_instruction h hpending,
    fun s u i r key h hpending hset hplace hr hbytes hraced => ?_, fun s => State.nextTurn_nil,
    fun s t rest h => ⟨State.nextTurn_cons h, ?_⟩⟩
  · exact step_instruction h hpending
      (fetch_code (hset.trans (encode_isThumb i).symm) hplace hr hbytes hraced) (encodeDecode i)
  · rintro e rfl
    exact step_host (State.nextTurn_cons h)

/-! ### The interrupt and the reset -/

/-- Settles O9: with FIQ low the interrupt to take is the IRQ, whose entry leaves F alone. -/
theorem interruptTaken : Obligations.InterruptTaken := by
  intro s u h hfiq hirq hmask
  have hpending : pendingInterrupt u = some .irq := by simp [pendingInterrupt, hfiq, hirq, hmask]
  rw [step_interrupt h hpending, enterInterrupt, takeException_eq (by decide)]
  rfl

/-- What a reset of the CPU unit leaves alone. -/
theorem resetCpu_units (s : State) : (resetCpu s).mem = s.mem ∧ (resetCpu s).cpsr.t = false := by
  simp only [resetCpu]
  split <;> exact ⟨rfl, rfl⟩

/-- Settles O10: the reset's turn is `resetBlock`: the CPU unit by its boot profile, the two units each by its own reset. -/
theorem resetFirst : Obligations.ResetFirst := by
  intro s rest h
  refine ⟨_, step_host (State.nextTurn_cons h), ?_⟩
  set u : State := { s with schedule := rest }
  obtain ⟨hparams, hschedule, -⟩ := resetCpu_fields u
  obtain ⟨hmem, ht⟩ := resetCpu_units u
  refine ⟨hschedule, hparams, ht, fun hboot => ?_, fun hboot => ?_, rfl, fun o => ⟨rfl, rfl, rfl⟩, rfl, rfl, rfl, rfl, rfl,
    rfl, rfl, hmem⟩
  · rw [resetBlock, resetCpu_hwReset (s := u) hboot]
    exact ⟨rfl, rfl, rfl, rfl⟩
  · rw [resetBlock, resetCpu_directBoot (s := u) hboot]
    exact ⟨rfl, rfl, rfl, rfl⟩

end Sys2Proof.Machine
end

section
/-! PROOFS. The link value an exception leaves (O17) and the return that undoes the entry (O18). -/

namespace Sys2Proof.Machine

/-! ### The link values (R922) -/

/-- The entry leaves its link in R14 of the mode it enters (R920). -/
@[simp] theorem takeException_link (e : Exc) (lr : Word) (s : State) : (takeException e lr s).bankReg e.mode 14#4 = lr :=
  State.bankReg_setBankReg_same _ _ _ _

theorem enterInterrupt_link (e : Exc) (s : State) : (enterInterrupt e s).bankReg e.mode 14#4 = s.pc + 4 :=
  takeException_link e _ s

theorem softwareInterrupt_link {k : SwiCall} {w : Word} {s t : State} (htrap : s.params.swiMode = .trap)
    (h : softwareInterrupt k w s.begun = .ok t) : t.bankReg .svc 14#4 = s.pc + w := by
  rcases softwareInterrupt_cases h with ⟨-, rfl⟩ | ⟨hext, -⟩
  · exact takeException_link .swi _ s.begun
  · cases htrap.symm.trans hext

theorem undefined_link {bits w : Word} {s t : State} (h : undefined bits w s.begun = .ok t) :
    t.bankReg .und 14#4 = s.pc + w := by
  rw [undefined_eq h]
  exact takeException_link .undefined _ s.begun

/-- An ARM instruction whose condition passes answers what its body does. -/
theorem runArm_body {c : Cond} {regs : List RegNum} {checks : State → Except Fault Unit}
    {body : State → Except Fault State} {s t : State} (hc : condHolds c s.cpsr = true)
    (h : runArm c regs checks body s = .next t) : body s.begun = .ok t := by
  rcases runArm_next h with ⟨hfails, -⟩ | ⟨-, -, hbody⟩
  · rw [hc] at hfails
    cases hfails
  · exact hbody

/-- Settles O17: every one of these instructions runs `softwareInterrupt` or `undefined` with its own width. -/
theorem linkValues : Obligations.LinkValues := by
  refine fun s => ⟨fun i t h => ?_, fun w t hc h => undefined_link (runArm_body hc h),
    fun half t h => undefined_link (runThumb_next.mp h), fun t u hturn => ⟨fun hpending h => ?_, fun hpending h => ?_⟩⟩
  · rw [exec_eq_runShape] at h
    refine ⟨fun c n hi hc htrap => ?_, fun n hi htrap => ?_, fun c n hi hc => ?_, fun n hi => ?_⟩ <;> rw [hi] at h
    · exact softwareInterrupt_link htrap (runArm_body hc h)
    · exact softwareInterrupt_link htrap (runThumb_next.mp h)
    · exact undefined_link (runArm_body hc h)
    · exact undefined_link (runThumb_next.mp h)
  · cases (step_interrupt hturn hpending).symm.trans h
    exact enterInterrupt_link .irq u
  · cases (step_interrupt hturn hpending).symm.trans h
    exact enterInterrupt_link .fiq u

/-! ### The return (R925) -/

/-- The entry saves the CPSR where the return reads it (R920, R122). -/
theorem takeException_spsrNow (e : Exc) (lr : Word) (s : State) : (takeException e lr s).spsrNow = some s.cpsr.pack := by
  cases e <;> rfl

/-- The handler's R14 holds the link, at any distance R15 would be read (R106). -/
theorem takeException_x (e : Exc) (lr : Word) (s : State) (off : Word) : (takeException e lr s).x off 14#4 = lr :=
  (State.x_of_ne _ _ _ (by decide)).trans (takeException_link e lr s)

/-- An aligned target is branched to as it is (R107). -/
theorem alignTarget_of_aligned {thumb : Bool} {v : Word}
    (h : if thumb then v &&& 1#32 = 0#32 else v &&& 3#32 = 0#32) : alignTarget thumb v = v := by
  cases thumb with
  | false =>
    have hall := and_add_and_compl v 0xFFFFFFFC#32 3#32 (by decide) (by decide)
    rwa [show v &&& 3#32 = 0#32 from h, BitVec.add_zero] at hall
  | true =>
    have hall := and_add_and_compl v 0xFFFFFFFE#32 1#32 (by decide) (by decide)
    rwa [show v &&& 1#32 = 0#32 from h, BitVec.add_zero] at hall

/-- `t` is the program interrupted in `s`, resumed at `next`, but for R14 of the handler's mode. -/
def Resumes (e : Exc) (next : Word) (s t : State) : Prop :=
  t.pc = next ∧ t.cpsr = s.cpsr ∧ t.mem = s.mem ∧
    ∀ m i, i ≠ 15#4 → physIndex m i ≠ physIndex e.mode 14#4 → t.bankReg m i = s.bankReg m i

/-- A flag-setting instruction that computes an aligned `next` into R15 resumes the interrupted program there (R451, R925). -/
theorem exec_return {i : Instr} {op : DpOp} {rn : RegNum} {o : Operand2} {e : Exc} {s : State} {lr next : Word}
    (hi : shapeOf i = .dataProc op .al true rn 15#4 o) (hop : op.isCompare = false) (hshift : o.isShiftReg = false)
    (halign : if s.cpsr.t then next &&& 1#32 = 0#32 else next &&& 3#32 = 0#32)
    (hnext : next = dpValue op ((takeException e lr s.begun).x o.pcAhead rn) (o.eval (takeException e lr s.begun)).1
      (takeException e lr s.begun).cpsr.c) :
    ∃ t, exec i (takeException e lr s.begun) = .next t ∧ Resumes e next s t := by
  have hs : Starts (shapeOf i) (takeException e lr s.begun) := by
    rw [hi]
    refine ⟨fun c hc => ?_, .inr (by simp)⟩
    cases hc
    rfl
  have hp : Permits (shapeOf i) (takeException e lr s.begun) := by
    rw [hi]
    refine ⟨rfl, .inr ?_⟩
    cases o with
    | imm | shiftImm => rfl
    | shiftReg => cases hshift
  obtain ⟨-, hreturn, -⟩ := dataProcessingBranch i op .al true rn o (takeException e lr s.begun) next hi hop hs hp hnext
  refine ⟨_, hreturn rfl _ s.cpsr (takeException_spsrNow e lr s.begun) (Cpsr.unpack_pack _) fun ht => .inr ?_,
    alignTarget_of_aligned halign, rfl, rfl, fun m j _ hj => ?_⟩
  · simpa [ht] using halign
  · exact (State.bankReg_setBankReg s e.mode m 14#4 j lr).trans (if_neg hj.symm)

/-- Settles O18: both returns compute the interrupted pc from the link, MOVS as it is and SUBS less the 4 added. -/
theorem exceptionRoundTrip : Obligations.ExceptionRoundTrip := by
  refine fun s next halign => ⟨fun e _ => exec_return rfl rfl rfl halign ?_, fun e _ => exec_return rfl rfl rfl halign ?_⟩
  · exact (takeException_x e next s.begun 8).symm
  · have hfour : ∀ c, (shiftedImm 0#4 4#8 c).1 = 4#32 := by decide
    simp [dpValue, Operand2.eval, takeException_x, hfour, subResult]

end Sys2Proof.Machine
end

section
/-! PROOFS. The two halves of Thumb BL (O33) and the Thumb single transfers (O45): the state each answers. -/

namespace Sys2Proof.Machine

/-! ### BL (R789, R790) -/

theorem blPrefix_runs (off : BitVec 11) (s : State) : blPrefix off s = .next
    { s with
      afterUserLdm := false
      regs := s.regs.set (physIndex s.cpsr.m 14#4) (s.pc + 4 + BitVec.ofInt 32 (off.toInt * 4096))
      pc := s.pc + 2 } := by
  rw [blPrefix, runThumb_runs, signExtend_shiftLeft]
  rfl

theorem blSuffix_runs (off : BitVec 11) (s : State) : blSuffix off s = .next
    { s with
      afterUserLdm := false
      stale := []
      regs := s.regs.set (physIndex s.cpsr.m 14#4) ((s.pc + 2) ||| 1#32)
      pc := (s.bankReg s.cpsr.m 14#4 + BitVec.ofNat 32 (off.toNat * 2)) &&& 0xFFFFFFFE#32 } := by
  have hoff : off.setWidth 32 <<< 1 = BitVec.ofNat 32 (off.toNat * 2) :=
    BitVec.eq_of_toNat_eq (by simp [Nat.shiftLeft_eq])
  rw [blSuffix, runThumb_runs, hoff, State.x_of_ne _ _ _ (by decide)]
  rfl

/-- The two offsets of a pair are the halves of one signed 22-bit offset (R341). -/
theorem ofInt_append_offset (hi lo : BitVec 11) :
    BitVec.ofInt 32 (hi.toInt * 4096) + BitVec.ofNat 32 (lo.toNat * 2) = BitVec.ofInt 32 ((hi ++ lo).toInt * 2) := by
  have happend : (hi ++ lo).toInt = 2 ^ 11 * hi.toInt + lo.toNat := BitVec.toInt_append
  have hsum : (hi ++ lo).toInt * 2 = hi.toInt * 4096 + ((lo.toNat * 2 : Nat) : Int) := by
    rw [happend]
    push_cast
    ring
  rw [hsum, BitVec.ofInt_add, BitVec.ofInt_natCast]

/-- Settles O33: the second half of a pair finds in R14 what the first left there. -/
theorem thumbLongBranch : Obligations.ThumbLongBranch := by
  refine fun s hi lo => ⟨blPrefix_runs hi s, blSuffix_runs lo s, fun t ht => ?_⟩
  cases (blPrefix_runs hi s).symm.trans ht
  refine ⟨_, blSuffix_runs lo _, ?_, ?_, rfl⟩
  · have hlink := State.bankReg_setBankReg_same s s.cpsr.m 14#4 (s.pc + 4 + BitVec.ofInt 32 (hi.toInt * 4096))
    rw [← ofInt_append_offset, ← BitVec.add_assoc]
    exact congrArg (fun r => (r + BitVec.ofNat 32 (lo.toNat * 2)) &&& 0xFFFFFFFE#32) hlink
  · refine (State.bankReg_setBankReg_same _ _ _ _).trans ?_
    simp [BitVec.add_assoc]

/-! ### Single transfers (R750 to R767) -/

/-- Settles O45: the access at the address the statements name, after it Rd or nothing, and the advance. -/
theorem thumbTransferResult : Obligations.ThumbTransferResult := by
  intro i t rd a s s' v hi
  have haddr : a.eval s.begun = a.value s := TAddr.eval_eq_value a s.begun
  rw [exec_eq_runShape, hi, runShape]
  refine ⟨fun ht hload => ?_, fun ht hstore => ?_⟩
  · have hm := loadValue_rel hload
    rw [if_pos ht, thumbLoad, runThumb_runs, haddr, hload, ok_bind, pure_eq_ok, settleFrom_ok]
    simp only [State.advance, State.setLo, State.setX, State.setBankReg, hm.regs, hm.cpsr, hm.pc]
    rfl
  · have hm := storeValue_rel hstore
    rw [if_neg (ne_true_of_eq_false ht), thumbStore, runThumb_runs, haddr, State.begun_lo, State.lo_eq, hstore, ok_bind,
      pure_eq_ok, settleFrom_ok, State.advance, hm.pc]
    rfl

end Sys2Proof.Machine
end

section
/-! PROOFS. PUSH and POP (O50) and the Thumb STMIA and LDMIA (O51): the state each answers where its words are transferred. -/

namespace Sys2Proof.Machine

/-! ### The registers of a Thumb list (R770 to R773) -/

theorem toNat_lt_of_mem_lowList {list : BitVec 8} {q : RegNum} (h : q ∈ lowList list) : q.toNat < 8 := by
  by_contra hge
  have hbit := mem_regList.mp h
  rw [BitVec.getLsbD_setWidth, BitVec.getLsbD_of_ge _ _ (Nat.not_lt.mp hge), Bool.and_false] at hbit
  cases hbit

theorem ne_of_mem_lowList {list : BitVec 8} {q i : RegNum} (h : q ∈ lowList list) (hi : 8 ≤ i.toNat) : q ≠ i := by
  rintro rfl
  exact absurd (toNat_lt_of_mem_lowList h) (Nat.not_lt.mpr hi)

theorem num_mem_lowList {list : BitVec 8} {rb : LowReg} (h : rb.num ∈ lowList list) : list.getLsbD rb.toNat = true := by
  have hbit := mem_regList.mp h
  rw [BitVec.getLsbD_setWidth] at hbit
  have hnum : rb.num.toNat = rb.toNat := BitVec.toNat_setWidth_of_le (by decide)
  rw [hnum] at hbit
  exact (Bool.and_eq_true_iff.mp hbit).2

theorem map_x_lowList (s : State) (off : Word) (list : BitVec 8) :
    (lowList list).map (s.x off) = (lowList list).map (s.bankReg s.cpsr.m) :=
  List.map_congr_left fun _ hq => s.x_of_ne off _ (ne_of_mem_lowList hq (by decide))

theorem stackRegs_nodup (r : Bool) {top : RegNum} (list : BitVec 8) (htop : 8 ≤ top.toNat) : (stackRegs r top list).Nodup := by
  cases r with
  | false =>
    rw [stackRegs, if_neg Bool.false_ne_true, List.append_nil]
    exact regList_nodup _
  | true => exact List.nodup_append.mpr ⟨regList_nodup _, List.nodup_singleton _, fun q hq i hi =>
      List.mem_singleton.mp hi ▸ ne_of_mem_lowList hq htop⟩

/-- The words PUSH stores (R770). -/
theorem map_x_stackRegs (s : State) (r : Bool) (list : BitVec 8) : (stackRegs r 14#4 list).map (s.x 4) =
    (lowList list).map (s.bankReg s.cpsr.m) ++ (if r then [s.bankReg s.cpsr.m 14#4] else []) := by
  rw [stackRegs, List.map_append, map_x_lowList]
  cases r with
  | false => rfl
  | true => exact congrArg (fun v => (lowList list).map (s.bankReg s.cpsr.m) ++ [v]) (s.x_of_ne 4 14#4 (by decide))

/-! ### PUSH and POP (R770, R771) -/

/-- The empty list without R is the only one the check refuses (R774(a)). -/
theorem stackList_checked {r : Bool} {list : BitVec 8} (h : list ≠ 0#8 ∨ r = true) (k : UnpredictableCase) (s : State) :
    checkNever (list = 0#8 && !r) k s = .ok () :=
  checkNever_eq_ok.mpr (by rcases h with h | rfl <;> simp [*])

theorem push_runs {r : Bool} {list : BitVec 8} {s s' : State} (hlist : list ≠ 0#8 ∨ r = true)
    (h : storeWords (s.bankReg s.cpsr.m 13#4 - BitVec.ofNat 32 (4 * stackCount r list))
      ((lowList list).map (s.bankReg s.cpsr.m) ++ (if r then [s.bankReg s.cpsr.m 14#4] else [])) s.begun = .ok s') :
    push r list s = .next ((s'.setX 13#4 (s.bankReg s.cpsr.m 13#4 - BitVec.ofNat 32 (4 * stackCount r list))).advance 2) := by
  have hsp : s.begun.x 4 13#4 = s.bankReg s.cpsr.m 13#4 := s.x_of_ne 4 13#4 (by decide)
  have hwords : (stackRegs r 14#4 list).map (s.begun.x 4) = _ := map_x_stackRegs s r list
  simp only [push, runThumb_runs, stackList_checked hlist, ok_bind, length_stackRegs, hsp, hwords, BlockMode.start,
    h, pure_eq_ok, settleFrom_ok]

/-- `s` with the popped registers and the stack pointer, `m` the current mode, R15 left out. -/
def State.popped (s : State) (m : Mode) (r : Bool) (list : BitVec 8) (vs : List Word) (sp : Word) : State :=
  (writeRegs m ((stackRegs r 15#4 list).zip vs) s).setBankReg m 13#4 sp

section
variable (s : State) (m : Mode) (r : Bool) {list : BitVec 8} {vs : List Word} (sp : Word)

theorem State.popped_eq : s.popped m r list vs sp = { s with regs := (s.popped m r list vs sp).regs } := by
  rw [State.popped, writeRegs_eq]
  rfl

theorem State.popped_sp : (s.popped m r list vs sp).bankReg m 13#4 = sp := State.bankReg_setBankReg_same _ _ _ _

theorem State.popped_listed {k : Nat} {q : RegNum} {v : Word} (hq : (lowList list)[k]? = some q) (hv : vs[k]? = some v) :
    (s.popped m r list vs sp).bankReg m q = v := by
  have hmem := List.mem_of_getElem? hq
  have hpc : q ≠ 15#4 := ne_of_mem_lowList hmem (by decide)
  have hlow : (stackRegs r 15#4 list)[k]? = some q :=
    (List.getElem?_append_left (List.getElem?_eq_some_iff.mp hq).1).trans hq
  rw [State.popped, State.bankReg_setBankReg,
    if_neg (physIndex_ne m (by decide) hpc (ne_of_mem_lowList hmem (by decide)).symm)]
  exact bankReg_writeRegs_zip (stackRegs_nodup r list (by decide)) hlow hv hpc s

end

theorem pop_runs {r : Bool} {list : BitVec 8} {s s' : State} {vs : List Word} (hlist : list ≠ 0#8 ∨ r = true)
    (h : loadWords (s.bankReg s.cpsr.m 13#4) (stackCount r list) s.begun = .ok (vs, s')) :
    pop r list s = .next
      (let u := s'.popped s.cpsr.m r list vs (s.bankReg s.cpsr.m 13#4 + BitVec.ofNat 32 (4 * stackCount r list))
       if r then branchThumb (vs.getLastD 0) u else u.advance 2) := by
  have hsp : s.begun.x 4 13#4 = s.bankReg s.cpsr.m 13#4 := s.x_of_ne 4 13#4 (by decide)
  have hmode : (writeRegs s.cpsr.m ((stackRegs r 15#4 list).zip vs) s').cpsr.m = s.cpsr.m :=
    congrArg Cpsr.m ((writeRegs_pc _ _ _).2.1.trans (loadWords_rel h).1.cpsr)
  simp only [pop, runThumb_runs, stackList_checked hlist, ok_bind, length_stackRegs, hsp, h, pure_eq_ok, settleFrom_ok,
    State.begun_cpsr, State.setX, hmode, BlockMode.writeBack]
  rfl

/-- Settles O50: PUSH is the stores and the stack pointer; POP is the reads, then `popped` and the branch or the advance. -/
theorem stackResult : Obligations.StackResult := by
  refine fun r list s s' vs hlist => ⟨fun hstore => ?_, fun hload => ?_⟩
  · have hm := storeWords_rel hstore
    refine (push_runs hlist hstore).trans ?_
    simp only [State.setX, State.setBankReg, State.advance, hm.regs, hm.cpsr, hm.pc]
    rfl
  · have hpc : s'.pc = s.pc := (loadWords_rel hload).1.pc
    have hrun : exec (.tPop r list) s = _ := pop_runs hlist hload
    refine ⟨_, hrun, ?_, ?_, fun k q v hq hv => ?_, fun m j hj hsp hne => ?_, ?_, ?_⟩
    · rw [State.popped_eq]
      cases r <;> rfl
    · cases r <;> exact State.popped_sp ..
    · cases r <;> exact State.popped_listed _ _ _ _ hq hv
    · refine registerFrame _ s _ m j hrun hj fun p hp _ => ?_
      rcases List.mem_cons.mp hp with rfl | hp
      · exact hsp
      · obtain ⟨q, hq, rfl⟩ := List.mem_map.mp hp
        exact hne q hq
    · rintro rfl
      exact congrArg (· + 2) ((congrArg State.pc (State.popped_eq ..)).trans hpc)
    · rintro v rfl hlast
      simp only [List.getLastD_eq_getLast?, hlast, if_true]
      rfl

/-! ### STMIA and LDMIA (R772, R773) -/

theorem thumbStoreMultiple_runs {rb : LowReg} {list : BitVec 8} {s s' : State} {moved : Word}
    (hmoved : moved = s.bankReg s.cpsr.m rb.num + BitVec.ofNat 32 (4 * (lowList list).length))
    (hp : Permits (.tBlock false rb list) s)
    (h : storeWords (s.bankReg s.cpsr.m rb.num) ((lowList list).map (fun q =>
      if q = rb.num ∧ (lowList list).head? ≠ some rb.num then moved else s.bankReg s.cpsr.m q)) s.begun = .ok s') :
    thumbStoreMultiple rb list s = .next ((s'.setLo rb moved).advance 2) := by
  obtain ⟨hlist, halt⟩ := hp
  have hnever : checkNever (list = 0#8) .thumbEmptyRegList s.begun = .ok () := checkNever_eq_ok.mpr hlist
  have hcheck : checkAlt (list.getLsbD rb.toNat && !((lowList list).head? == some rb.num)) .stmWbBaseNotLowest s.begun = .ok () :=
    checkAlt_eq_ok.mpr (by simpa [Shape.altCase] using halt)
  have hwords : (lowList list).map (fun q =>
        if (q = rb.num && !((lowList list).head? == some rb.num)) = true then moved else s.begun.x 4 q) =
      (lowList list).map (fun q =>
        if q = rb.num ∧ (lowList list).head? ≠ some rb.num then moved else s.bankReg s.cpsr.m q) :=
    List.map_congr_left fun q hq => if_congr (by simp) rfl (s.x_of_ne 4 q (ne_of_mem_lowList hq (by decide)))
  have hback : BlockMode.ia.writeBack (s.bankReg s.cpsr.m rb.num) (lowList list).length = moved := hmoved.symm
  simp only [thumbStoreMultiple, runThumb_runs, hnever, hcheck, ok_bind, State.lo_eq, State.begun_bankReg, State.begun_cpsr,
    hback, hwords, h, pure_eq_ok, settleFrom_ok]

theorem thumbLoadMultiple_runs {rb : LowReg} {list : BitVec 8} {s s' : State} {vs : List Word} {moved : Word}
    (hmoved : moved = s.bankReg s.cpsr.m rb.num + BitVec.ofNat 32 (4 * (lowList list).length))
    (hp : Permits (.tBlock true rb list) s)
    (h : loadWords (s.bankReg s.cpsr.m rb.num) (lowList list).length s.begun = .ok (vs, s')) :
    thumbLoadMultiple rb list s =
      .next ((writeRegs s.cpsr.m ((lowList list).zip vs) (s'.setBankReg s.cpsr.m rb.num moved)).advance 2) := by
  have hnever : checkNever (list = 0#8) .thumbEmptyRegList s.begun = .ok () := checkNever_eq_ok.mpr hp.1
  have hback : BlockMode.ia.writeBack (s.bankReg s.cpsr.m rb.num) (lowList list).length = moved := hmoved.symm
  simp only [thumbLoadMultiple, runThumb_runs, hnever, ok_bind, State.lo_eq, State.begun_bankReg, State.begun_cpsr, hback, h,
    pure_eq_ok, settleFrom_ok, State.setLo, State.setX, (loadWords_rel h).1.cpsr]

/-- Settles O51: the words, then the base; for LDMIA the listed registers over it. -/
theorem thumbBlockResult : Obligations.ThumbBlockResult := by
  refine fun rb list s s' vs moved hmoved => ⟨fun hp hstore => ?_, fun hp hload => ?_⟩
  · have hm := storeWords_rel hstore
    refine (thumbStoreMultiple_runs hmoved hp hstore).trans ?_
    simp only [State.setLo, State.setX, State.setBankReg, State.advance, hm.regs, hm.cpsr, hm.pc]
    rfl
  · have hpc : s'.pc = s.pc := (loadWords_rel hload).1.pc
    refine ⟨_, thumbLoadMultiple_runs hmoved hp hload, ?_, fun k q v hq hv => ?_, fun hbit => ?_⟩
    · rw [writeRegs_eq, ← hpc]
      rfl
    · exact bankReg_writeRegs_zip (regList_nodup _) hq hv (ne_of_mem_lowList (List.mem_of_getElem? hq) (by decide)) _
    · refine (writeRegs_bankReg _ _ _ _ _ fun p hp => ?_).trans (State.bankReg_setBankReg_same _ _ _ _)
      have hmem : p.1 ∈ lowList list := (List.of_mem_zip hp).1
      refine .inr (physIndex_ne _ (LowReg.num_ne rb) (ne_of_mem_lowList hmem (by decide)) fun heq => ?_)
      exact ne_true_of_eq_false hbit (num_mem_lowList (heq ▸ hmem))

end Sys2Proof.Machine
end

section
/-! PROOFS. The EEPROM protocol (O58): one lemma for each point of it. -/

namespace Sys2Proof.Machine

/-! ### The checks of a store (R832, R837) -/

theorem eepromLatch_of_width {count n : Nat} {b : Bool} (hn : n = 6 ∨ n = 14)
    (hwidth : (count : Int) - (if b then 3 else 67) = n) : eepromLatch count b = .ok n := by
  rcases hn with rfl | rfl <;> simp [eepromLatch, hwidth]

theorem eepromLatch_of_ne {count : Nat} {b : Bool} (h6 : (count : Int) - (if b then 3 else 67) ≠ 6)
    (h14 : (count : Int) - (if b then 3 else 67) ≠ 14) :
    eepromLatch count b = .error (.eepromAddressWidth ((count : Int) - (if b then 3 else 67))) := by
  simp only [eepromLatch, if_neg h6, if_neg h14]

/-- The check at the last address bit, `r = last`, passes for a cursor within the part. -/
theorem eepromCheck_last {r last : Int} {size cursor : Nat} (h : r = last → 8 * (cursor / 64) + 8 ≤ size)
    (k : Except FaultReason Save) : (if r = last then eepromCheck size cursor >>= fun _ => k else k) = k := by
  split
  next hr => rw [eepromCheck, if_pos (h hr), ok_bind]
  next => rfl

theorem eepromCheck_beyond {size cursor : Nat} (h : size < 8 * (cursor / 64) + 8) :
    eepromCheck size cursor = .error (.eepromRange (cursor / 64)) := if_neg (Nat.not_le.mpr h)

/-! ### A store, by the state of the protocol (R831 to R835) -/

section
variable {p : Params} {count : Nat} {x : Save} {b : Bool}

theorem eepromStore16_idle (hc : x.eeprom.command = .null ∨ x.eeprom.command = .read) : eepromStore16 p count x b =
    .ok { x with eeprom := { x.eeprom with command := if b then .pending else .null } } := by
  rcases hc with hc | hc <;> simp only [eepromStore16, hc, pure_eq_ok]

theorem eepromStore16_header {n : Nat} (hc : x.eeprom.command = .pending)
    (hbits : (if x.eeprom.addressBits = 0 then eepromLatch count b else .ok x.eeprom.addressBits) = .ok n) :
    eepromStore16 p count x b = .ok
      { x with
        eeprom := if b then
            { x.eeprom with addressBits := n, command := .readPending, commandBitsRemaining := n + 1, readAddress := 0 }
          else { x.eeprom with addressBits := n, command := .write, commandBitsRemaining := n + 65, writeAddress := 0 } } := by
  by_cases h0 : x.eeprom.addressBits = 0
  · rw [if_pos h0] at hbits
    simp only [eepromStore16, hc, if_pos h0, hbits, ok_bind]
    cases b <;> rfl
  · rw [if_neg h0] at hbits
    cases hbits
    simp only [eepromStore16, hc, if_neg h0]
    cases b <;> rfl

theorem eepromStore16_header_error {width : Int} (hc : x.eeprom.command = .pending) (h0 : x.eeprom.addressBits = 0)
    (hlatch : eepromLatch count b = .error (.eepromAddressWidth width)) :
    eepromStore16 p count x b = .error (.eepromAddressWidth width) := by
  simp only [eepromStore16, hc, h0, if_true, hlatch]
  rfl

/-- Writing a bit of the buffer changes that bit alone. -/
theorem getLsbD_read_eepromSetBit (buf : SaveBuffer) (i j n : Nat) (hn : n < 8) :
    ((eepromSetBit buf i b).read j).getLsbD n =
      if j = i / 8 ∧ n = 7 - i % 8 then b else (buf.read j).getLsbD n := by
  rw [eepromSetBit, SaveBuffer.read_write]
  by_cases hj : i / 8 = j
  · subst hj
    have hmask : (1#8 <<< (7 - i % 8)).getLsbD n = decide (n = 7 - i % 8) := by
      have htwo : 1#8 <<< (7 - i % 8) = BitVec.twoPow 8 (7 - i % 8) := rfl
      rw [htwo, BitVec.getLsbD_twoPow, decide_eq_true (by omega : 7 - i % 8 < 8), Bool.true_and]
      exact decide_eq_decide.mpr eq_comm
    generalize 1#8 <<< (7 - i % 8) = mask at hmask ⊢
    rw [if_pos rfl]
    cases b with
    | false =>
      rw [if_neg Bool.false_ne_true, BitVec.getLsbD_and, BitVec.getLsbD_not, hmask]
      by_cases hbit : n = 7 - i % 8 <;> simp [hbit, hn]
    | true =>
      rw [if_pos rfl, BitVec.getLsbD_or, hmask]
      by_cases hbit : n = 7 - i % 8 <;> simp [hbit]
  · rw [if_neg hj, if_neg fun h => hj h.1.symm]

/-- The address bits of a write, the last one checked. -/
theorem eepromStore16_writeAddress {r : Int} (hr : r = x.eeprom.commandBitsRemaining - 1) (hc : x.eeprom.command = .write)
    (h64 : 64 < r)
    (hsize : r = 65 → 8 * (eepromShiftIn x.eeprom.writeAddress b / 64) + 8 ≤ p.eepromSize) : eepromStore16 p count x b =
      .ok { x with
        eeprom := { x.eeprom with commandBitsRemaining := r, writeAddress := eepromShiftIn x.eeprom.writeAddress b } } := by
  simp only [eepromStore16, hc, ← hr, if_pos h64]
  exact eepromCheck_last hsize _

theorem eepromStore16_writeRange (hr : x.eeprom.commandBitsRemaining - 1 = 65) (hc : x.eeprom.command = .write)
    (hsize : p.eepromSize < 8 * (eepromShiftIn x.eeprom.writeAddress b / 64) + 8) :
    eepromStore16 p count x b = .error (.eepromRange (eepromShiftIn x.eeprom.writeAddress b / 64)) := by
  simp only [eepromStore16, hc, hr, eepromCheck_beyond hsize]
  rfl

theorem eepromStore16_writeStop (hr : x.eeprom.commandBitsRemaining - 1 = 0) (hc : x.eeprom.command = .write) :
    eepromStore16 p count x b =
      .ok { x with eeprom := { x.eeprom with commandBitsRemaining := 0, command := .null }, writePending := true } := by
  simp only [eepromStore16, hc, hr]
  rfl

theorem eepromStore16_writeData {r : Int} (hr : r = x.eeprom.commandBitsRemaining - 1) (hc : x.eeprom.command = .write)
    (h1 : 1 ≤ r) (h64 : r ≤ 64) : eepromStore16 p count x b =
      .ok { x with
        buffer := eepromSetBit x.buffer x.eeprom.writeAddress b
        eeprom := { x.eeprom with commandBitsRemaining := r, writeAddress := x.eeprom.writeAddress + 1 } } := by
  have hne : r ≠ 0 := (Int.lt_of_lt_of_le Int.one_pos h1).ne'
  simp only [eepromStore16, hc, ← hr, if_neg (not_lt.mpr h64), if_neg hne, pure_eq_ok]

/-- The address bits of a read, the last one checked. -/
theorem eepromStore16_readAddress {r : Int} (hr : r = x.eeprom.commandBitsRemaining - 1)
    (hc : x.eeprom.command = .readPending) (h0 : 0 < r)
    (hsize : r = 1 → 8 * (eepromShiftIn x.eeprom.readAddress b / 64) + 8 ≤ p.eepromSize) : eepromStore16 p count x b =
      .ok { x with
        eeprom := { x.eeprom with commandBitsRemaining := r, readAddress := eepromShiftIn x.eeprom.readAddress b } } := by
  simp only [eepromStore16, hc, ← hr, if_pos h0]
  exact eepromCheck_last hsize _

theorem eepromStore16_readRange (hr : x.eeprom.commandBitsRemaining - 1 = 1) (hc : x.eeprom.command = .readPending)
    (hsize : p.eepromSize < 8 * (eepromShiftIn x.eeprom.readAddress b / 64) + 8) :
    eepromStore16 p count x b = .error (.eepromRange (eepromShiftIn x.eeprom.readAddress b / 64)) := by
  simp only [eepromStore16, hc, hr, eepromCheck_beyond hsize]
  rfl

theorem eepromStore16_readStop {r : Int} (hr : r = x.eeprom.commandBitsRemaining - 1)
    (hc : x.eeprom.command = .readPending) (h0 : r ≤ 0) : eepromStore16 p count x b =
      .ok { x with eeprom := { x.eeprom with commandBitsRemaining := r, command := .read, readBitsRemaining := 68 } } := by
  simp only [eepromStore16, hc, ← hr, if_neg (not_lt.mpr h0), pure_eq_ok]

end

/-! ### A load (R836) -/

theorem eepromLoad16_idle {enable : Bool} {x : Save} (h : x.eeprom.command ≠ .read ∨ enable = false) :
    eepromLoad16 enable x = (1, x) := if_pos (by simpa using h)

/-- The first four bits of the response. -/
theorem eepromLoad16_lead {x : Save} (hc : x.eeprom.command = .read) (hn : 64 < x.eeprom.readBitsRemaining) :
    eepromLoad16 true x =
      (0, { x with eeprom := { x.eeprom with readBitsRemaining := x.eeprom.readBitsRemaining - 1 } }) := by
  have h64 : x.eeprom.readBitsRemaining - 1 ≥ 64 := Int.le_sub_one_of_lt hn
  simp only [eepromLoad16, hc, if_pos h64]
  rfl

/-- The bits of the block. -/
theorem eepromLoad16_bit {x : Save} {n : Nat} (hc : x.eeprom.command = .read) (hn : x.eeprom.readBitsRemaining = n)
    (h64 : n ≤ 64) : eepromLoad16 true x =
      (if eepromBit x.buffer (x.eeprom.readAddress + (64 - n)) then 1 else 0,
        { x with
          eeprom := { x.eeprom with readBitsRemaining := (n : Int) - 1, command := if n = 1 then .null else .read } }) := by
  have hlt : ¬ (n : Int) - 1 ≥ 64 := by omega
  have hindex : ((x.eeprom.readAddress : Int) + (63 - ((n : Int) - 1))).toNat = x.eeprom.readAddress + (64 - n) := by omega
  have hlast : ((n : Int) - 1 = 0) = (n = 1) := propext (by omega)
  simp only [eepromLoad16, hc, hn, if_neg hlt, hindex, hlast]
  rfl

theorem eepromLoad16_read {x : Save} {n : Nat} (hc : x.eeprom.command = .read) (h1 : 1 ≤ n)
    (hn : x.eeprom.readBitsRemaining = n) :
    (eepromLoad16 true x).2 =
      { x with eeprom := { x.eeprom with readBitsRemaining := (n : Int) - 1, command := if n = 1 then .null else .read } } ∧
    (64 < n → (eepromLoad16 true x).1 = 0) ∧
    (n ≤ 64 → (eepromLoad16 true x).1 = if eepromBit x.buffer (x.eeprom.readAddress + (64 - n)) then 1 else 0) := by
  rcases Nat.lt_or_ge 64 n with h64 | h64
  · rw [eepromLoad16_lead hc (by omega), hn, ← hc, if_neg (by omega)]
    exact ⟨rfl, fun _ => rfl, fun h => absurd h (by omega)⟩
  · rw [eepromLoad16_bit hc hn h64]
    exact ⟨rfl, fun h => absurd h (by omega), fun _ => rfl⟩

/-! ### An access of the bus (R201, R830) -/

theorem busLoad_eeprom {a : Word} {s : State} {o : Nat} (hk : s.params.saveKind = .eeprom)
    (ha : classify s.params a = some (.save, o)) : busLoad .half a s =
      .ok ((eepromLoad16 s.dma3Enable s.save).1, { s with save := (eepromLoad16 s.dma3Enable s.save).2 }) := by
  rw [busLoad_save ha, saveLoad, hk]
  rfl

theorem busStore_eeprom {a v : Word} {s : State} {o : Nat} (hk : s.params.saveKind = .eeprom)
    (ha : classify s.params a = some (.save, o)) : busStore .half a v s =
      stopAt s (eepromStore16 s.params s.dma3Count s.save (v.getLsbD 0)) >>= fun y => .ok { s with save := y } := by
  rw [busStore_save ha, saveStore, hk]

/-- Settles O58: by the lemma for each point of the protocol. -/
theorem eepromProtocol : Obligations.EepromProtocol := by
  refine ⟨fun p count x b width hwidth => ⟨eepromStore16_idle, fun hc h0 h6 h14 => ?_, fun n hc hn => ?_,
      fun r cursor hr hc hcursor => ?_, fun r cursor hr hc hcursor => ?_⟩,
    fun x n hc h1 _ hn => eepromLoad16_read hc h1 hn, fun enable x h => eepromLoad16_idle h,
    fun a v s o hk ha => ⟨busLoad_eeprom hk ha, fun y hy => ?_, fun r hr => ?_⟩⟩
  · subst hwidth
    exact eepromStore16_header_error hc h0 (eepromLatch_of_ne h6 h14)
  · refine eepromStore16_header hc ?_
    by_cases h0 : x.eeprom.addressBits = 0
    · rw [if_pos h0] at hn ⊢
      exact eepromLatch_of_width hn.1 (hwidth.symm.trans hn.2)
    · rw [if_neg h0] at hn ⊢
      rw [hn]
  · subst hcursor
    refine ⟨eepromStore16_writeAddress hr hc, fun h65 => eepromStore16_writeRange (hr.symm.trans h65) hc,
      fun h0 => eepromStore16_writeStop (hr.symm.trans h0) hc,
      fun h1 h64 => ⟨_, eepromStore16_writeData hr hc h1 h64, rfl, fun j n hn => getLsbD_read_eepromSetBit _ _ j n hn⟩⟩
  · subst hcursor
    exact ⟨eepromStore16_readAddress hr hc, fun h1 => eepromStore16_readRange (hr.symm.trans h1) hc,
      eepromStore16_readStop hr hc⟩
  · rw [busStore_eeprom hk ha, hy]
    rfl
  · rw [busStore_eeprom hk ha, hr]
    rfl

end Sys2Proof.Machine
end

section
/-! PROOFS. The scanlines and frames of the render proxy (O60). -/

namespace Sys2Proof.Machine

/-! ### Scanlines (R862) -/

/-- The copy of a block holds its bytes and no other. -/
theorem Proxy.readZ_block (p : Params) (x : Proxy) (k o : Nat) : Memory.readZ (x.block p k) o =
    if o / 2 ^ p.vramBlockShift = k then Memory.readZ x.vram o else 0#8 := by
  rw [Memory.readZ, Proxy.block, Assoc.get?_filter_key x.vram (fun a => a >>> p.vramBlockShift == k), Nat.shiftRight_eq_div_pow]
  simp only [beq_iff_eq]
  split <;> rfl

theorem Proxy.mem_record_vram {p : Params} {x : Proxy} {y k : Nat} {b : Memory} (h : (k, b) ∈ (x.record p y).vram) :
    b = x.block p k := by
  obtain ⟨j, -, hj⟩ := List.mem_map.mp h
  cases hj
  rfl

theorem Proxy.record_vram_keys (p : Params) (x : Proxy) (y : Nat) : (x.record p y).vram.map Prod.fst = x.dirtyVram := by
  rw [Proxy.record, List.map_map]
  exact List.map_id _

theorem Proxy.drawScanline_skip {p : Params} {x : Proxy} {y : Nat} (h : x.skipFrame = true ∨ x.clean = true) :
    x.drawScanline p y = x := by
  rcases h with h | h <;> simp [Proxy.drawScanline, h]

theorem Proxy.drawScanline_dirty {p : Params} {x : Proxy} {y : Nat} (hskip : x.skipFrame = false) (hdirty : x.clean = false) :
    x.drawScanline p y = { x with queue := x.queue ++ [x.record p y] : Proxy }.cleaned := by
  simp [Proxy.drawScanline, hskip, hdirty]

/-! ### Frames (R863, R864) -/

theorem Proxy.startDraw_skipFrame (p : Params) (x : Proxy) :
    (x.startDraw p).skipFrame = (x.skipFrame && decide (p.skipResume < x.delay)) := by
  have hlt : (!decide (x.delay ≤ p.skipResume)) = decide (p.skipResume < x.delay) := by simp [← decide_not]
  rw [← hlt, Proxy.startDraw]
  split <;> rfl

theorem Proxy.startDraw_currentFrame (p : Params) (x : Proxy) : (x.startDraw p).currentFrame = x.currentFrame + 1 := by
  rw [Proxy.startDraw]
  split <;> rfl

/-- A frame that is drawn is in flight. -/
theorem Proxy.startDraw_drawn {p : Params} {x : Proxy} (h : (x.startDraw p).skipFrame = false) :
    (x.startDraw p).delay = x.delay + 1 ∧ (x.startDraw p).posted = x.posted ++ [.start x.backing] := by
  rw [Proxy.startDraw] at h ⊢
  split at h
  next hskip => exact absurd hskip (ne_true_of_eq_false h)
  next hskip =>
    rw [if_neg hskip]
    exact ⟨rfl, rfl⟩

theorem Proxy.startDraw_skipped {p : Params} {x : Proxy} (h : (x.startDraw p).skipFrame = true) :
    (x.startDraw p).delay = x.delay ∧ (x.startDraw p).posted = x.posted := by
  rw [Proxy.startDraw] at h ⊢
  split at h
  next hskip =>
    rw [if_pos hskip]
    exact ⟨rfl, rfl⟩
  next hskip => exact absurd h hskip

theorem Proxy.finishDraw_skipped {x : Proxy} (h : x.skipFrame = true) : x.finishDraw = x := if_pos h

theorem Proxy.finishDraw_drawn {x : Proxy} (h : x.skipFrame = false) : x.finishDraw =
    { x with
      posted := x.posted ++ [.finish x.queue x.currentFrame]
      awaiting := x.awaiting + 1
      queue := []
      skipFrame := decide (2 < x.delay) } := if_neg (ne_true_of_eq_false h)

/-- Settles O60: by what each operation of the proxy answers. -/
theorem renderFrames : Obligations.RenderFrames := by
  refine fun p x => ⟨fun y => ⟨Proxy.drawScanline_skip, fun hskip hdirty => ?_⟩, x.startDraw_currentFrame p,
    x.startDraw_skipFrame p, Proxy.startDraw_drawn, Proxy.startDraw_skipped, Proxy.finishDraw_skipped, fun h => ?_,
    fun s h hx => ⟨fun h0 => ?_, fun hpos => ?_⟩⟩
  · rw [Proxy.drawScanline_dirty hskip hdirty]
    refine ⟨x.record p y, rfl, rfl, rfl, rfl, rfl, rfl, x.record_vram_keys p y, fun k b hb o => ?_, rfl, rfl, rfl, rfl⟩
    rw [Proxy.mem_record_vram hb, Proxy.readZ_block]
  · rw [Proxy.finishDraw_drawn h]
    exact ⟨rfl, rfl, rfl, rfl, rfl⟩
  · subst hx
    exact congrArg Except.ok (if_pos h0)
  · subst hx
    exact congrArg Except.ok (if_neg hpos.ne')

end Sys2Proof.Machine
end
